-- ==== Sys2Proof/Word.lean ====
section
/-! DEFINITION. The word types of the block: the widths of `spec/10_state.md` (R17 to R31) and of
`spec/00_scope.md` R8, R9. Every value is an unsigned bit vector; nothing in the block is signed. -/

namespace Sys2Proof

/-- 8 bits: one byte of MEM, one array register, the immediate of a command (R9, R10). -/
abbrev Byte := BitVec 8

/-- 16 bits: the device, product, vendor and DFU version registers (R31). -/
abbrev Half := BitVec 16

/-- 32 bits: a register access, a command word, a MEM address (R8). -/
abbrev Word := BitVec 32

/-- A register number, 0 to `0xFFF` (R32). -/
abbrev RegNum := BitVec 12

end Sys2Proof
end

