-- ==== Sys2Proof/Machine/HostAction.lean ====
section
/-! DEFINITION. The host's side of the interface as plain data: the actions of `spec/30_encoding.md`
R72 that make one step each (`spec/00_scope.md` R15), the reset input (R153), and what an action
returns to the host. -/

namespace Sys2Proof

/-- One action of the world outside the block. A step of the machine is one of these (R15). -/
inductive HostAction where
  /-- `RD reg`: a register read (R72, R130). -/
  | rd (reg : RegNum)
  /-- `WR reg, data`: a register write; a write to register 0 (CMD) runs a command (R72, R131). -/
  | wr (reg : RegNum) (data : Word)
  /-- `MEMRD addr, n`: a read of `n` bytes of MEM (R41). -/
  | memRd (addr : Word) (n : Nat)
  /-- `MEMWR addr, bytes`: a write of a byte sequence to MEM (R41). -/
  | memWr (addr : Word) (bytes : List Byte)
  /-- The block's reset input is asserted (R153). -/
  | hardReset
  deriving DecidableEq, Repr

/-- What the last action returned to the host: the value of a register read, the bytes of a MEM read,
or nothing (R72). -/
inductive HostReply where
  /-- The action returns no value. -/
  | nothing
  /-- `RD` returned these 32 data bits (R34). -/
  | word (value : Word)
  /-- `MEMRD` returned these bytes, lowest address first (R41). -/
  | bytes (values : List Byte)
  deriving DecidableEq, Repr

end Sys2Proof
end

