-- ==== Sys2Proof/Syntax.lean ====
section
/-! DEFINITION. The 19 commands of `spec/30_encoding.md` R66, one constructor per row of
`spec/opcode_table.json`. Only the two format I commands carry an operand, the 8-bit immediate (R59,
R60); every wider operand is read from the ARG registers when the command starts (R61). -/

namespace Sys2Proof

/-- A command of the block (R66). -/
inductive Instr where
  /-- `NOP` (R132). -/
  | nop
  /-- `SYS.RESET` (R133). -/
  | sysReset
  /-- `CRC.TINIT` (R91). -/
  | crcTinit
  /-- `CRC.SEED` (R92). -/
  | crcSeed
  /-- `CRC.BYTE #imm8`: `imm8` is the data byte (R93). -/
  | crcByte (imm8 : Byte)
  /-- `CRC.BLOCK` (R94). -/
  | crcBlock
  /-- `DM.INIT` (R98). -/
  | dmInit
  /-- `DM.ADDIMG #imm8`: `imm8` is the alternate-setting number (R99). -/
  | dmAddimg (imm8 : Byte)
  /-- `DM.ADDEL` (R100). -/
  | dmAddel
  /-- `PK.PREFIX` (R109). -/
  | pkPrefix
  /-- `PK.TPREFIX` (R110). -/
  | pkTprefix
  /-- `PK.ELHDR` (R111). -/
  | pkElhdr
  /-- `PK.DATA` (R113). -/
  | pkData
  /-- `PK.SUFFIX` (R115). -/
  | pkSuffix
  /-- `UP.PREFIX` (R121). -/
  | upPrefix
  /-- `UP.TPREFIX` (R122). -/
  | upTprefix
  /-- `UP.ELHDR` (R123). -/
  | upElhdr
  /-- `UP.DATA` (R125). -/
  | upData
  /-- `UP.SUFFIX` (R126). -/
  | upSuffix
  deriving DecidableEq, Repr

end Sys2Proof
end

