-- ==== Sys2Proof/WellFormed.lean ====
section
/-! DEFINITION. What the encoding and the interface admit. A command's only operand is an 8-bit
immediate that may take any value (`spec/30_encoding.md` R59, R60), so its type is its whole check. A
host MEM access must lie inside MEM (`spec/20_memory.md` R41). -/

namespace Sys2Proof

/-- Every command term is well formed: the immediate of a format I command is "any value
`0x00`..`0xFF`" (R59) and no other command has an operand. -/
def Instr.wf : Instr → Bool
  | .nop => true
  | .sysReset => true
  | .crcTinit => true
  | .crcSeed => true
  | .crcByte _ => true
  | .crcBlock => true
  | .dmInit => true
  | .dmAddimg _ => true
  | .dmAddel => true
  | .pkPrefix => true
  | .pkTprefix => true
  | .pkElhdr => true
  | .pkData => true
  | .pkSuffix => true
  | .upPrefix => true
  | .upTprefix => true
  | .upElhdr => true
  | .upData => true
  | .upSuffix => true

/-- The moves the spec gives the host: a MEM access is defined for `addr + n <= MEM_BYTES` (R41);
register accesses and the reset input are always defined (R33, R34, R153). -/
def HostAction.wf (memBytes : Nat) : HostAction → Bool
  | .rd _ => true
  | .wr _ _ => true
  | .memRd addr n => decide (addr.toNat + n ≤ memBytes)
  | .memWr addr bytes => decide (addr.toNat + bytes.length ≤ memBytes)
  | .hardReset => true

end Sys2Proof
end

