-- ==== Sys2Proof/Decode.lean ====
section
/-! DEFINITION. Decoding and encoding of command words: `spec/30_encoding.md` R58 to R69. A command word
is one 32-bit datum written to register CMD, so there is no byte order in it. -/

namespace Sys2Proof

/-- Why a word is an illegal encoding, in the order of R63 and R146. -/
inductive Reject where
  /-- The `zero` field, bits 31:16, is not zero (R62). -/
  | reservedBits
  /-- The opcode, bits 7:0, is not one of the 19 (R64). -/
  | unknownOpcode
  /-- A format N word whose `imm8` field, bits 15:8, is not zero (R62). -/
  | nonzeroImm
  deriving DecidableEq, Repr

/-- Bits 7:0 of a command word (R59). -/
def opcodeField (w : Word) : Byte := w.extractLsb' 0 8

/-- Bits 15:8 of a command word, used as they are (R59, R60). -/
def immField (w : Word) : Byte := w.extractLsb' 8 8

/-- Bits 31:16 of a command word (R59). -/
def zeroField (w : Word) : Half := w.extractLsb' 16 16

/-- A format N command: its `imm8` field must be zero (R59, R63). -/
def formatN (i : Instr) (imm8 : Byte) : Except Reject Instr :=
  if imm8 = 0 then .ok i else .error .nonzeroImm

/-- The opcode table of R66. -/
def decodeOpcode (opcode imm8 : Byte) : Except Reject Instr :=
  match opcode.toNat with
  | 0x00 => formatN .nop imm8
  | 0x01 => formatN .sysReset imm8
  | 0x10 => formatN .crcTinit imm8
  | 0x11 => formatN .crcSeed imm8
  | 0x12 => .ok (.crcByte imm8)
  | 0x13 => formatN .crcBlock imm8
  | 0x20 => formatN .dmInit imm8
  | 0x21 => .ok (.dmAddimg imm8)
  | 0x22 => formatN .dmAddel imm8
  | 0x30 => formatN .pkPrefix imm8
  | 0x31 => formatN .pkTprefix imm8
  | 0x32 => formatN .pkElhdr imm8
  | 0x33 => formatN .pkData imm8
  | 0x34 => formatN .pkSuffix imm8
  | 0x40 => formatN .upPrefix imm8
  | 0x41 => formatN .upTprefix imm8
  | 0x42 => formatN .upElhdr imm8
  | 0x43 => formatN .upData imm8
  | 0x44 => formatN .upSuffix imm8
  | _ => .error .unknownOpcode

/-- Decode a command word, total on all 2^32 words (R63, its lines after the latch test, which
`runCommand` and `raise` make). -/
def decode (w : Word) : Except Reject Instr :=
  if zeroField w ≠ 0 then .error .reservedBits else decodeOpcode (opcodeField w) (immField w)

/-- The word of a format N command is its opcode as a number (R59). -/
def wordN (opcode : Byte) : Word := opcode.setWidth 32

/-- The word of a format I command is `opcode + 256 * imm8` (R59). -/
def wordI (opcode imm8 : Byte) : Word := 0#16 ++ imm8 ++ opcode

/-- The command word of a command, from the table of R66. -/
def encode : Instr → Word
  | .nop => wordN 0x00
  | .sysReset => wordN 0x01
  | .crcTinit => wordN 0x10
  | .crcSeed => wordN 0x11
  | .crcByte imm8 => wordI 0x12 imm8
  | .crcBlock => wordN 0x13
  | .dmInit => wordN 0x20
  | .dmAddimg imm8 => wordI 0x21 imm8
  | .dmAddel => wordN 0x22
  | .pkPrefix => wordN 0x30
  | .pkTprefix => wordN 0x31
  | .pkElhdr => wordN 0x32
  | .pkData => wordN 0x33
  | .pkSuffix => wordN 0x34
  | .upPrefix => wordN 0x40
  | .upTprefix => wordN 0x41
  | .upElhdr => wordN 0x42
  | .upData => wordN 0x43
  | .upSuffix => wordN 0x44

/-- A row of `opcode_table.json`: a word w encodes the row's command exactly when `w & mask == match`
(R68). -/
structure OpRow where
  mnemonic : String
  pattern : Word
  mask : Word
  deriving DecidableEq, Repr

/-- A format N row: every bit of the word is fixed (R66, R68). -/
def rowN (mnemonic : String) (pattern : Word) : OpRow := ⟨mnemonic, pattern, 0xFFFFFFFF⟩

/-- A format I row: the `imm8` field is free (R66, R68). -/
def rowI (mnemonic : String) (pattern : Word) : OpRow := ⟨mnemonic, pattern, 0xFFFF00FF⟩

/-- The row of a command in the table of R66, written from the table's word and mask columns and not
from `encode` or `decode`: the second copy of the encoding that the statements compare the decoder
with. -/
def tableRow : Instr → OpRow
  | .nop => rowN "NOP" 0x00000000
  | .sysReset => rowN "SYS.RESET" 0x00000001
  | .crcTinit => rowN "CRC.TINIT" 0x00000010
  | .crcSeed => rowN "CRC.SEED" 0x00000011
  | .crcByte _ => rowI "CRC.BYTE" 0x00000012
  | .crcBlock => rowN "CRC.BLOCK" 0x00000013
  | .dmInit => rowN "DM.INIT" 0x00000020
  | .dmAddimg _ => rowI "DM.ADDIMG" 0x00000021
  | .dmAddel => rowN "DM.ADDEL" 0x00000022
  | .pkPrefix => rowN "PK.PREFIX" 0x00000030
  | .pkTprefix => rowN "PK.TPREFIX" 0x00000031
  | .pkElhdr => rowN "PK.ELHDR" 0x00000032
  | .pkData => rowN "PK.DATA" 0x00000033
  | .pkSuffix => rowN "PK.SUFFIX" 0x00000034
  | .upPrefix => rowN "UP.PREFIX" 0x00000040
  | .upTprefix => rowN "UP.TPREFIX" 0x00000041
  | .upElhdr => rowN "UP.ELHDR" 0x00000042
  | .upData => rowN "UP.DATA" 0x00000043
  | .upSuffix => rowN "UP.SUFFIX" 0x00000044

/-- The instruction the decoder reads from an instruction of `nbits` bits `w`, numbered as
`spec/opcode_table.json` numbers them: one 32-bit command word, the bits above `nbits` zero. -/
def decodeTableWord (nbits w : Nat) : Option Instr :=
  (decode (BitVec.ofNat 32 (w % 2 ^ nbits))).toOption

end Sys2Proof
end

