-- ==== Sys2Proof/Config.lean ====
section
/-! DEFINITION. What the spec leaves to an implementation or to a run: the initial contents of MEM
(`spec/93_implementation_defined.md` U2) and the size of MEM in the reset state (R7, U4). -/

namespace Sys2Proof.Config

/-- The value of a MEM byte that nothing has written since hard reset (R42, U2): a FREE VALUE, one for
each byte address and each hard reset, with no body, so that nothing can be proved of it. A run over
unwritten bytes goes on, and what it computes is a function of this input. Assumption log entry 2. -/
opaque initialByte (epoch addr : Nat) : Byte

/-- MEM_BYTES in `State.reset`. The spec leaves MEM_BYTES open (R7, U4: a parameter, 1 to 2^32); the
model carries it in `State.memBytes`, so that every statement over all states holds for every size.
DESIGN CHOICE (assumption log entry 1, unsafe): the size the spec's own vectors use (95, "starts from
hard reset with MEM_BYTES = 0x4000"). -/
def resetMemBytes : Nat := 0x4000

/-- The largest MEM_BYTES (R7, R42): 2^32. -/
def maxMemBytes : Nat := 4294967296

end Sys2Proof.Config
end

