-- ==== Sys2Proof/Machine/State.lean ====
section
/-! DEFINITION. The whole state of the block and of the MEM it shares with the host (`spec/10_state.md` R16
to R38, `spec/20_memory.md` R42), the ways a step can stop, and the state after hard reset. -/

namespace Sys2Proof.Machine

/-- A stream window: the MEM address of stream offset 0, of the next byte, and one past the last byte
(R24, R25). -/
structure Window where
  base : Word
  pos : Word
  lim : Word
  deriving DecidableEq, Repr

/-- The prefix registers PFX_SIZE, PFX_TCNT, PFX_VER, PFX_SIG[0..4] (R28). -/
structure PrefixRegs where
  size : Word
  tcnt : Byte
  ver : Byte
  sig : Vector Byte 5
  deriving DecidableEq, Repr

/-- The target-prefix registers TGT_ALT, TGT_NAMED, TGT_SIZE, TGT_NELEM, TGT_SIG[0..5],
TGT_NAME[0..254] of the current target (R29). -/
structure TargetRegs where
  alt : Byte
  named : Byte
  size : Word
  nelem : Word
  sig : Vector Byte 6
  name : Vector Byte 255
  deriving DecidableEq, Repr

/-- The element registers EL_ADDR, EL_SIZE of the current element (R30). -/
structure ElementRegs where
  addr : Word
  size : Word
  deriving DecidableEq, Repr

/-- The suffix registers SFX_DEV, SFX_PROD, SFX_VEND, SFX_DFU, SFX_LEN, SFX_CRC, SFX_SIG[0..2] (R31). -/
structure SuffixRegs where
  dev : Half
  prod : Half
  vend : Half
  dfu : Half
  len : Byte
  crc : Word
  sig : Vector Byte 3
  deriving DecidableEq, Repr

/-- The written bytes of MEM as (address, byte) pairs, addresses strictly rising. An unlisted address is
a byte that nothing has written since hard reset (R42). -/
abbrev Memory := List Host.Cell

/-- The machine. CMD and STATUS have no storage (R17, R18), so they have no field. -/
structure State where
  /-- ERR: the code of the latched fault, 0 for none (R19). -/
  err : Byte
  /-- ERRINFO: the context value of the latched fault (R20). -/
  errInfo : Word
  /-- ARG0 (R21). -/
  arg0 : Word
  /-- ARG1 (R21). -/
  arg1 : Word
  /-- ARG2 (R21). -/
  arg2 : Word
  /-- ACC, the CRC accumulator (R22). -/
  acc : Word
  /-- TBL[0..255], the hidden lookup table (R23). -/
  tbl : Vector Word 256
  /-- TVALID, the table valid bit (R23). -/
  tvalid : Bool
  /-- WBASE, WPOS, WLIM, the output window (R24). -/
  outWin : Window
  /-- RBASE, RPOS, RLIM, the input window (R25). -/
  inWin : Window
  /-- The prefix registers (R28). -/
  pfx : PrefixRegs
  /-- The current target's registers (R29). -/
  tgt : TargetRegs
  /-- The current element's registers (R30). -/
  el : ElementRegs
  /-- The suffix registers (R31). -/
  sfx : SuffixRegs
  /-- The written bytes of MEM (R42). -/
  mem : Memory
  /-- MEM_BYTES, the size of MEM: a parameter of the machine that no step changes (R7, R37; log entry
  1). -/
  memBytes : Nat
  /-- The MODEL's own counter of hard resets, which selects the free initial contents of MEM (log entries
  2 and 3). -/
  memEpoch : Nat
  /-- The MODEL's own field: the host actions that are still to come, in order (R15, R53; log entry 4). -/
  script : List HostAction
  /-- The MODEL's own field: what the last action returned to the host (R72; log entry 5). -/
  reply : HostReply
  deriving DecidableEq, Repr

/-- The machine has no stopping fault, hence no constructor: every error kind of `spec/60_exceptions.md`
is a NEXT state in which the fault is latched in ERR (R143), and a command's access outside MEM is one of
them (`BufRange`, R46). Log entry 6 (safe: there is nothing to hide behind). -/
inductive Fault where
  deriving DecidableEq, Repr

/-- Why a step has no meaning. -/
inductive Refusal where
  /-- Raised by `exec` for a command that has no meaning yet (none at present). Safe: the model stops. -/
  | notModelled (mnemonic : String)
  /-- Raised by the step for a host MEM access that does not lie inside MEM: it is outside the spec, "a
  model gives it no move" (R41, U3 "refuse"). Safe: the model stops. -/
  | hostAccessOutsideMem
  deriving DecidableEq, Repr

/-- What a command or a step answers. -/
abbrev Result := Host.Outcome State Fault Refusal

/-- An empty window: what reset leaves (R38). -/
def Window.zero : Window := ⟨0, 0, 0⟩

/-- The prefix registers after reset (R28, R38). -/
def PrefixRegs.zero : PrefixRegs := ⟨0, 0, 0, Vector.replicate 5 0⟩

/-- The target registers after reset (R29, R38). -/
def TargetRegs.zero : TargetRegs := ⟨0, 0, 0, 0, Vector.replicate 6 0, Vector.replicate 255 0⟩

/-- The element registers after reset (R30, R38). -/
def ElementRegs.zero : ElementRegs := ⟨0, 0⟩

/-- The suffix registers after reset (R31, R38). -/
def SuffixRegs.zero : SuffixRegs := ⟨0, 0, 0, 0, 0, 0, Vector.replicate 3 0⟩

/-- The machine right after hard reset: the table of R38. The spec gives TBL no value after hard reset
(R23, U1 "any value that is never read"): the model's zeros are a DESIGN CHOICE (log entry 7). MEM has
nothing listed, so every byte of it reads as a free value (R42, log entry 2). The block waits for the
host (R153): no action is pending. -/
def State.reset : State where
  err := 0
  errInfo := 0
  arg0 := 0
  arg1 := 0
  arg2 := 0
  acc := 0xFFFFFFFF
  tbl := Vector.replicate 256 0
  tvalid := false
  outWin := .zero
  inWin := .zero
  pfx := .zero
  tgt := .zero
  el := .zero
  sfx := .zero
  mem := []
  memBytes := Config.resetMemBytes
  memEpoch := 0
  script := []
  reply := .nothing

end Sys2Proof.Machine
end

