-- ==== Sys2Proof/Machine/Operands.lean ====
section
/-! DEFINITION. The operands of the commands, read from the ARG registers when the command starts, each as a
32-bit unsigned value: the table of `spec/30_encoding.md` R61. The only other operand form is the
immediate `imm8`, which decoding puts into the command. -/

namespace Sys2Proof.Machine

/-- CRC.BLOCK: MEM address of the first byte, in ARG0 (R61, R94). -/
def State.blockAddr (s : State) : Word := s.arg0

/-- CRC.BLOCK: number of bytes, in ARG1 (R61, R94). -/
def State.blockLen (s : State) : Nat := s.arg1.toNat

/-- DM.INIT: the device identifier, in ARG0 (R61, R98). -/
def State.initDevice (s : State) : Word := s.arg0

/-- DM.INIT: the vendor identifier, in ARG1 (R61, R98). -/
def State.initVendor (s : State) : Word := s.arg1

/-- DM.INIT: the product identifier, in ARG2 (R61, R98). -/
def State.initProduct (s : State) : Word := s.arg2

/-- DM.ADDIMG: MEM address of the name, in ARG0 (R61, R99). -/
def State.nameAddr (s : State) : Word := s.arg0

/-- DM.ADDIMG: name length in bytes, in ARG1 (R61, R99). -/
def State.nameLen (s : State) : Word := s.arg1

/-- DM.ADDEL: element load address, in ARG0 (R61, R100). -/
def State.elemAddr (s : State) : Word := s.arg0

/-- DM.ADDEL: element payload size, in ARG1 (R61, R100). -/
def State.elemSize (s : State) : Word := s.arg1

/-- PK.DATA: MEM address of the payload source, in ARG0 (R61, R113). -/
def State.dataSource (s : State) : Word := s.arg0

/-- UP.DATA: MEM address of the payload destination, in ARG0 (R61, R125). -/
def State.dataDest (s : State) : Word := s.arg0

/-- PK.DATA and UP.DATA: number of bytes, in ARG1 (R61, R113, R125). -/
def State.dataLen (s : State) : Nat := s.arg1.toNat

end Sys2Proof.Machine
end

