-- ==== Sys2Proof/Machine/CrcUnit.lean ====
section
/-! DEFINITION. The CRC-32 function of `spec/40_crc.md` R83 to R88: bit-serial step, table constants,
table-driven step, and the fold over a byte sequence. No final complement is applied (R83, R87; log
entry 11). -/

namespace Sys2Proof.Machine

/-- The reflected polynomial constant (R8, R83). -/
def crcPoly : Word := 0xEDB88320

/-- The seed (R8, R83). -/
def crcSeed : Word := 0xFFFFFFFF

/-- One shift-and-conditional-xor round of R84. -/
def crcRound (x : Word) : Word :=
  if x.getLsbD 0 then (x >>> 1) ^^^ crcPoly else x >>> 1

/-- `n` rounds, one after the other (R84). -/
def crcRounds : Nat → Word → Word
  | 0, x => x
  | n + 1, x => crcRounds n (crcRound x)

/-- `crc_step(a, b)`, the bit-serial definition (R84). -/
def crcStep (a : Word) (b : Byte) : Word := crcRounds 8 (a ^^^ b.setWidth 32)

/-- `T(i) = crc_step(0, i)` (R85). -/
def crcEntry (i : Nat) : Word := crcStep 0 (BitVec.ofNat 8 i)

/-- The 256 table constants, as CRC.TINIT writes them (R85, R91). -/
def crcTable : Vector Word 256 :=
  ⟨⟨(List.range 256).map crcEntry⟩, by simp⟩

/-- `crc_step_tbl(a, b) = TBL[(a ^ zext_32(b))[7:0]] ^ (a >> 8)`, the form the hardware uses (R86). -/
def crcStepTbl (tbl : Vector Word 256) (a : Word) (b : Byte) : Word :=
  tbl[((a ^^^ b.setWidth 32).extractLsb' 0 8).toNat]'(BitVec.isLt _) ^^^ (a >>> 8)

/-- `crc_update(a, s)`: the fold of `crc_step` over the bytes in order (R87). -/
def crcUpdate (a : Word) (s : List Byte) : Word := s.foldl crcStep a

/-- The same fold with the table-driven step, which is what a command computes (R86, R90). -/
def crcUpdateTbl (tbl : Vector Word 256) (a : Word) (s : List Byte) : Word :=
  s.foldl (crcStepTbl tbl) a

end Sys2Proof.Machine
end

