-- ==== Sys2Proof/Machine/Ops.lean ====
section
/-! DEFINITION. The shared operations: reading and writing MEM, the range check, the stream windows, taking
a fault, leaving the faulted state, and the frame every command runs in. `spec/20_memory.md` R42, R46, R50
to R52; `spec/60_exceptions.md` R141, R143, R144, R147; `spec/10_state.md` R38. -/

namespace Sys2Proof.Machine

/-! ### MEM -/

/-- The canonical form of a memory: addresses strictly rising. No entry can equal what an unlisted
address reads as, since that is no value at all (log entry 2). -/
abbrev Memory.wf (m : Memory) : Prop := m.Pairwise fun x y => x.1 < y.1

/-- The written byte at an address; an unlisted address has none (R42). -/
def Memory.read : Memory → Nat → Option Byte
  | [], _ => none
  | (k, v) :: m, a => if k = a then some v else Memory.read m a

/-- The cells of a byte sequence stored from address `a` on. -/
def cellsFrom (a : Nat) : List Byte → Memory
  | [] => []
  | b :: bs => (a, b) :: cellsFrom (a + 1) bs

/-- `MemWrite(a, len(bs), bs)`: stores `bs[i]` into `MEM[a+i]` for every i (R12). An empty sequence
touches no byte (R46). -/
def Memory.write (m : Memory) (a : Nat) (bs : List Byte) : Memory :=
  if bs.length = 0 then m
  else m.filter (fun c => decide (c.1 < a)) ++ cellsFrom a bs
    ++ m.filter (fun c => decide (a + bs.length ≤ c.1))

/-- One byte of MEM: the last value written, or the byte's free initial value (R42, log entry 2). -/
def State.readByte (s : State) (a : Nat) : Byte :=
  (s.mem.read a).getD (Config.initialByte s.memEpoch a)

/-- `MemRead(a, n)`: the bytes `MEM[a]` to `MEM[a+n-1]` (R12). -/
def State.readBytes (s : State) (a n : Nat) : List Byte :=
  (List.range n).map fun i => s.readByte (a + i)

/-- `MemWrite` on the state (R12). -/
def State.writeBytes (s : State) (a : Nat) (bs : List Byte) : State :=
  { s with mem := s.mem.write a bs }

/-- The range check of R46: `n = 0` or `a + n <= MEM_BYTES`, on unbounded integers. -/
abbrev State.inMem (s : State) (a n : Nat) : Prop := n = 0 ∨ a + n ≤ s.memBytes

/-! ### Faults -/

/-- The fault kinds of R137 and R140. The five reserved kinds (R137) are named and never raised. -/
inductive FaultKind where
  | sourceUnreadable
  | hexSyntaxError
  | hexChecksumError
  | hexTruncated
  | nameTooLong
  | allocationLimit
  | ioWriteShort
  | ioReadShort
  | illegalCmd
  | bufRange
  | fieldOverflow
  | tableNotReady
  | noTarget
  deriving DecidableEq, Repr

/-- The code of a fault kind, the value of ERR (R141). -/
def faultCode : FaultKind → Byte
  | .sourceUnreadable => 1
  | .hexSyntaxError => 2
  | .hexChecksumError => 3
  | .hexTruncated => 4
  | .nameTooLong => 5
  | .allocationLimit => 6
  | .ioWriteShort => 7
  | .ioReadShort => 8
  | .illegalCmd => 9
  | .bufRange => 10
  | .fieldOverflow => 11
  | .tableNotReady => 12
  | .noTarget => 13

/-- A fault about to be taken: its kind and the value for ERRINFO (R142). -/
structure Trap where
  kind : FaultKind
  info : Word
  deriving DecidableEq, Repr

/-- TAKING A FAULT, `raise F(info)` (R143): if no fault is latched, ERR and ERRINFO are written and
every other register and every MEM byte keeps its value. Nothing else is saved, no mode changes and no
control goes anywhere. -/
def raise (e : Trap) (s : State) : State :=
  if s.err = 0 then { s with err := faultCode e.kind, errInfo := e.info } else s

/-- LEAVING THE FAULTED STATE, the soft reset values (R133, R147; last column of R38): TBL, TVALID and
MEM are kept. -/
def softReset (s : State) : State :=
  { s with
    err := 0, errInfo := 0, arg0 := 0, arg1 := 0, arg2 := 0, acc := crcSeed,
    outWin := .zero, inWin := .zero, pfx := .zero, tgt := .zero, el := .zero, sfx := .zero }

/-- The reset input (R153, R38): the hard-reset value of every piece of state. MEM is unspecified
afterwards, so its contents become fresh free values (R38, R42, R155; log entry 3). The size of MEM and
the host's script are no state of the block. -/
def hardReset (s : State) : State :=
  { State.reset with
    memBytes := s.memBytes, memEpoch := s.memEpoch + 1, script := s.script, reply := s.reply }

/-- The frame of every command but SYS.RESET. While a fault is latched the command has no effect at all
(R144). Otherwise its rule runs as one indivisible step (R131): it either answers the state after it,
or raises a fault, which leaves the state before it but for ERR and ERRINFO (R143). -/
def runCommand (rule : State → Except Trap State) (s : State) : Result :=
  if s.err = 0 then
    match rule s with
    | .ok t => .next t
    | .error e => .next (raise e s)
  else .next s

/-! ### Stream windows -/

/-- `Emit(bs)` (R50): append to the output window, all or nothing. -/
def emit (bs : List Byte) (s : State) : Except Trap State :=
  let p := s.outWin.pos
  let n := bs.length
  if 0 < n ∧ (p.toNat > s.outWin.lim.toNat ∨ p.toNat + n > s.outWin.lim.toNat) then
    .error ⟨.ioWriteShort, p⟩
  else if 0 < n ∧ p.toNat + n > s.memBytes then .error ⟨.bufRange, p⟩
  else .ok { s.writeBytes p.toNat bs with
    outWin := { s.outWin with pos := BitVec.ofNat 32 (p.toNat + n) } }

/-- `Take(n)` (R51): consume from the input window, all or nothing. -/
def takeStream (n : Nat) (s : State) : Except Trap (List Byte × State) :=
  let p := s.inWin.pos
  if 0 < n ∧ (p.toNat > s.inWin.lim.toNat ∨ p.toNat + n > s.inWin.lim.toNat) then
    .error ⟨.ioReadShort, p⟩
  else if 0 < n ∧ p.toNat + n > s.memBytes then .error ⟨.bufRange, p⟩
  else .ok (s.readBytes p.toNat n,
    { s with inWin := { s.inWin with pos := BitVec.ofNat 32 (p.toNat + n) } })

end Sys2Proof.Machine
end

