-- ==== Sys2Proof/Machine/Crc.lean ====
section
/-! DEFINITION. The CRC commands: `spec/40_crc.md` R90 to R94. A byte update reads TBL (R86, R90; log entry
10). -/

namespace Sys2Proof.Machine

/-- The rule of CRC.TINIT (R91). -/
def ruleCrcTinit (s : State) : Except Trap State :=
  .ok { s with tbl := crcTable, tvalid := true }

/-- CRC.TINIT: its rule, run in the frame of every command (R131, R144). -/
def execCrcTinit (s : State) : Result := runCommand ruleCrcTinit s

/-- The rule of CRC.SEED (R92). -/
def ruleCrcSeed (s : State) : Except Trap State :=
  .ok { s with acc := crcSeed }

/-- CRC.SEED: its rule, run in the frame of every command (R131, R144). -/
def execCrcSeed (s : State) : Result := runCommand ruleCrcSeed s

/-- The rule of CRC.BYTE #imm8 (R93). -/
def ruleCrcByte (imm8 : Byte) (s : State) : Except Trap State :=
  if s.tvalid = false then .error ⟨.tableNotReady, 0⟩
  else .ok { s with acc := crcStepTbl s.tbl s.acc imm8 }

/-- CRC.BYTE #imm8: its rule, run in the frame of every command (R131, R144). -/
def execCrcByte (imm8 : Byte) (s : State) : Result := runCommand (ruleCrcByte imm8) s

/-- The rule of CRC.BLOCK (R94): the range check and the update are all or nothing. -/
def ruleCrcBlock (s : State) : Except Trap State :=
  let a := s.blockAddr
  let n := s.blockLen
  if s.tvalid = false then .error ⟨.tableNotReady, 0⟩
  else if ¬ s.inMem a.toNat n then .error ⟨.bufRange, a⟩
  else .ok { s with acc := crcUpdateTbl s.tbl s.acc (s.readBytes a.toNat n) }

/-- CRC.BLOCK: its rule, run in the frame of every command (R131, R144). -/
def execCrcBlock (s : State) : Result := runCommand ruleCrcBlock s

end Sys2Proof.Machine
end

