-- ==== Sys2Proof/Machine/Bytes.lean ====
section
/-! DEFINITION. Byte sequences and the little-endian packing primitives: `spec/00_scope.md` R10, R11 and
`spec/20_memory.md` R43. -/

namespace Sys2Proof.Machine

/-- `le16(v)` = `[v[7:0], v[15:8]]` (R11). -/
def le16 (v : Half) : List Byte :=
  [v.extractLsb' 0 8, v.extractLsb' 8 8]

/-- `le32(v)` = `[v[7:0], v[15:8], v[23:16], v[31:24]]` (R11). -/
def le32 (v : Word) : List Byte :=
  [v.extractLsb' 0 8, v.extractLsb' 8 8, v.extractLsb' 16 8, v.extractLsb' 24 8]

/-- `s[i]` of a byte sequence (R10). Past the end it is zero; no rule reads there (log entry 13). -/
def byteAt (s : List Byte) (i : Nat) : Byte := s.getD i 0

/-- `s[i..j)` of a byte sequence (R10). -/
def slice (s : List Byte) (i j : Nat) : List Byte := (s.drop i).take (j - i)

/-- `un_le16([b0, b1])` = b0 + 256*b1 (R11). -/
def unLe16 (s : List Byte) : Half :=
  BitVec.ofNat 16 ((byteAt s 0).toNat + 256 * (byteAt s 1).toNat)

/-- `un_le32([b0, b1, b2, b3])` = b0 + 256*b1 + 65536*b2 + 16777216*b3 (R11). -/
def unLe32 (s : List Byte) : Word :=
  BitVec.ofNat 32 ((byteAt s 0).toNat + 256 * (byteAt s 1).toNat + 65536 * (byteAt s 2).toNat
    + 16777216 * (byteAt s 3).toNat)

/-- A byte-array register of `n` bytes loaded with a byte sequence, index 0 first; registers past the
end of a shorter sequence become zero (the null padding of R29 and R99), and bytes past the last
register are not stored. -/
def byteArray (n : Nat) (s : List Byte) : Vector Byte n :=
  ⟨⟨(s ++ List.replicate n 0).take n⟩, by simp⟩

/-- "DfuSe" (R10). -/
def sigDfuSe : List Byte := [0x44, 0x66, 0x75, 0x53, 0x65]

/-- "Target" (R10). -/
def sigTarget : List Byte := [0x54, 0x61, 0x72, 0x67, 0x65, 0x74]

/-- "UFD" (R10). -/
def sigUfd : List Byte := [0x55, 0x46, 0x44]

end Sys2Proof.Machine
end

