-- ==== Sys2Proof/Machine/Layout.lean ====
section
/-! DEFINITION. The byte layouts of the four DfuSe structures and their inverses: `spec/30_encoding.md` R75
to R78 and R82. -/

namespace Sys2Proof.Machine

/-- Length of the prefix (R75). -/
def prefixLen : Nat := 11

/-- Length of a target prefix (R76). -/
def tprefixLen : Nat := 271

/-- Length of an element header (R77). -/
def elhdrLen : Nat := 8

/-- Length of the suffix (R78). -/
def suffixLen : Nat := 16

/-- `pack_prefix` (R75). -/
def packPrefix (p : PrefixRegs) : List Byte :=
  p.sig.toList ++ [p.ver] ++ le32 p.size ++ [p.tcnt]

/-- `pack_tprefix` (R76). -/
def packTprefix (t : TargetRegs) : List Byte :=
  t.sig.toList ++ [t.alt] ++ [t.named] ++ t.name.toList ++ le32 t.size ++ le32 t.nelem

/-- `pack_elhdr` (R77). -/
def packElhdr (e : ElementRegs) : List Byte := le32 e.addr ++ le32 e.size

/-- `pack_suffix12`: the suffix before its CRC field (R78). -/
def packSuffix12 (x : SuffixRegs) : List Byte :=
  le16 x.dev ++ le16 x.prod ++ le16 x.vend ++ le16 x.dfu ++ x.sig.toList ++ [x.len]

/-- `pack_suffix` (R78). -/
def packSuffix (x : SuffixRegs) : List Byte := packSuffix12 x ++ le32 x.crc

/-- `unpack_prefix` (R82). -/
def unpackPrefix (s : List Byte) : PrefixRegs where
  sig := byteArray 5 (slice s 0 5)
  ver := byteAt s 5
  size := unLe32 (slice s 6 10)
  tcnt := byteAt s 10

/-- `unpack_tprefix` (R82). -/
def unpackTprefix (s : List Byte) : TargetRegs where
  sig := byteArray 6 (slice s 0 6)
  alt := byteAt s 6
  named := byteAt s 7
  name := byteArray 255 (slice s 8 263)
  size := unLe32 (slice s 263 267)
  nelem := unLe32 (slice s 267 271)

/-- `unpack_elhdr` (R82). -/
def unpackElhdr (s : List Byte) : ElementRegs where
  addr := unLe32 (slice s 0 4)
  size := unLe32 (slice s 4 8)

/-- `unpack_suffix` (R82). -/
def unpackSuffix (s : List Byte) : SuffixRegs where
  dev := unLe16 (slice s 0 2)
  prod := unLe16 (slice s 2 4)
  vend := unLe16 (slice s 4 6)
  dfu := unLe16 (slice s 6 8)
  sig := byteArray 3 (slice s 8 11)
  len := byteAt s 11
  crc := unLe32 (slice s 12 16)

end Sys2Proof.Machine
end

