-- ==== Sys2Proof/Machine/Flags.lean ====
section
/-! DEFINITION. The flags of the block: the two fields of the view STATUS (`spec/10_state.md` R18). No
command sets a condition code, so there is no other flag computation. -/

namespace Sys2Proof.Machine

/-- STATUS bit 0, FAULT: 1 exactly when ERR is not 0 (R18). -/
def State.faultFlag (s : State) : Bool := s.err != 0

/-- STATUS bit 1, TVALID: the table valid bit (R18, R23). -/
def State.tvalidFlag (s : State) : Bool := s.tvalid

/-- The 32 data bits of a read of STATUS: bits 31:2 are zero (R18). -/
def State.status (s : State) : Word :=
  0#30 ++ BitVec.ofBool s.tvalidFlag ++ BitVec.ofBool s.faultFlag

end Sys2Proof.Machine
end

