-- ==== Sys2Proof/Machine/Registers.lean ====
section
/-! DEFINITION. The register space REG: the map of `spec/10_state.md` R32, and the one operation that reads
a register and the one that writes it (R33, R34, R130). A write to CMD runs a command; that is
`Machine/HostAccess.lean`. -/

namespace Sys2Proof.Machine

/-- The registers of the map of R32, an array element with its index. -/
inductive Reg where
  | cmd
  | status
  | err
  | errInfo
  | arg0
  | arg1
  | arg2
  | acc
  | wbase
  | wpos
  | wlim
  | rbase
  | rpos
  | rlim
  | pfxSize
  | pfxTcnt
  | pfxVer
  | pfxSig (i : Fin 5)
  | tgtAlt
  | tgtNamed
  | tgtSize
  | tgtNelem
  | tgtSig (i : Fin 6)
  | tgtName (i : Fin 255)
  | elAddr
  | elSize
  | sfxDev
  | sfxProd
  | sfxVend
  | sfxDfu
  | sfxLen
  | sfxCrc
  | sfxSig (i : Fin 3)
  deriving DecidableEq, Repr

/-- The register at a number; `none` for an unmapped number (R32, R33). -/
def regAt (number : RegNum) : Option Reg :=
  match number.toNat with
  | 0x00 => some .cmd
  | 0x01 => some .status
  | 0x02 => some .err
  | 0x03 => some .errInfo
  | 0x04 => some .arg0
  | 0x05 => some .arg1
  | 0x06 => some .arg2
  | 0x08 => some .acc
  | 0x10 => some .wbase
  | 0x11 => some .wpos
  | 0x12 => some .wlim
  | 0x14 => some .rbase
  | 0x15 => some .rpos
  | 0x16 => some .rlim
  | 0x20 => some .pfxSize
  | 0x21 => some .pfxTcnt
  | 0x22 => some .pfxVer
  | 0x28 => some (.pfxSig 0)
  | 0x29 => some (.pfxSig 1)
  | 0x2A => some (.pfxSig 2)
  | 0x2B => some (.pfxSig 3)
  | 0x2C => some (.pfxSig 4)
  | 0x30 => some .tgtAlt
  | 0x31 => some .tgtNamed
  | 0x32 => some .tgtSize
  | 0x33 => some .tgtNelem
  | 0x38 => some (.tgtSig 0)
  | 0x39 => some (.tgtSig 1)
  | 0x3A => some (.tgtSig 2)
  | 0x3B => some (.tgtSig 3)
  | 0x3C => some (.tgtSig 4)
  | 0x3D => some (.tgtSig 5)
  | 0x40 => some .elAddr
  | 0x41 => some .elSize
  | 0x50 => some .sfxDev
  | 0x51 => some .sfxProd
  | 0x52 => some .sfxVend
  | 0x53 => some .sfxDfu
  | 0x54 => some .sfxLen
  | 0x55 => some .sfxCrc
  | 0x58 => some (.sfxSig 0)
  | 0x59 => some (.sfxSig 1)
  | 0x5A => some (.sfxSig 2)
  | n => if h : n - 0x100 < 255 ∧ 0x100 ≤ n then some (.tgtName ⟨n - 0x100, h.1⟩) else none

/-- The number of a register, the inverse of the map (R32): TGT_NAME[i] has number `0x100 + i`. -/
def regNumber : Reg → RegNum
  | .cmd => 0x00
  | .status => 0x01
  | .err => 0x02
  | .errInfo => 0x03
  | .arg0 => 0x04
  | .arg1 => 0x05
  | .arg2 => 0x06
  | .acc => 0x08
  | .wbase => 0x10
  | .wpos => 0x11
  | .wlim => 0x12
  | .rbase => 0x14
  | .rpos => 0x15
  | .rlim => 0x16
  | .pfxSize => 0x20
  | .pfxTcnt => 0x21
  | .pfxVer => 0x22
  | .pfxSig i => BitVec.ofNat 12 (0x28 + i)
  | .tgtAlt => 0x30
  | .tgtNamed => 0x31
  | .tgtSize => 0x32
  | .tgtNelem => 0x33
  | .tgtSig i => BitVec.ofNat 12 (0x38 + i)
  | .tgtName i => BitVec.ofNat 12 (0x100 + i)
  | .elAddr => 0x40
  | .elSize => 0x41
  | .sfxDev => 0x50
  | .sfxProd => 0x51
  | .sfxVend => 0x52
  | .sfxDfu => 0x53
  | .sfxLen => 0x54
  | .sfxCrc => 0x55
  | .sfxSig i => BitVec.ofNat 12 (0x58 + i)

/-- The width in bits, from the table of R32. -/
def regWidth : Reg → Nat
  | .cmd => 32
  | .status => 32
  | .err => 8
  | .errInfo => 32
  | .arg0 => 32
  | .arg1 => 32
  | .arg2 => 32
  | .acc => 32
  | .wbase => 32
  | .wpos => 32
  | .wlim => 32
  | .rbase => 32
  | .rpos => 32
  | .rlim => 32
  | .pfxSize => 32
  | .pfxTcnt => 8
  | .pfxVer => 8
  | .pfxSig _ => 8
  | .tgtAlt => 8
  | .tgtNamed => 8
  | .tgtSize => 32
  | .tgtNelem => 32
  | .tgtSig _ => 8
  | .tgtName _ => 8
  | .elAddr => 32
  | .elSize => 32
  | .sfxDev => 16
  | .sfxProd => 16
  | .sfxVend => 16
  | .sfxDfu => 16
  | .sfxLen => 8
  | .sfxCrc => 32
  | .sfxSig _ => 8

/-- The three kinds of host access of the table of R32. -/
inductive Access where
  /-- "write-only (reads 0)": CMD. -/
  | writeOnly
  /-- "read-only": STATUS, ERR, ERRINFO. -/
  | readOnly
  /-- "read, write": every other register. -/
  | readWrite
  deriving DecidableEq, Repr

/-- The host access of a register, the access column of R32. -/
def regAccess : Reg → Access
  | .cmd => .writeOnly
  | .status => .readOnly
  | .err => .readOnly
  | .errInfo => .readOnly
  | _ => .readWrite

/-- The 32 data bits of a read of a register, zero-extended (R34); CMD reads 0 (R17). -/
def State.readReg (s : State) : Reg → Word
  | .cmd => 0
  | .status => s.status
  | .err => s.err.setWidth 32
  | .errInfo => s.errInfo
  | .arg0 => s.arg0
  | .arg1 => s.arg1
  | .arg2 => s.arg2
  | .acc => s.acc
  | .wbase => s.outWin.base
  | .wpos => s.outWin.pos
  | .wlim => s.outWin.lim
  | .rbase => s.inWin.base
  | .rpos => s.inWin.pos
  | .rlim => s.inWin.lim
  | .pfxSize => s.pfx.size
  | .pfxTcnt => s.pfx.tcnt.setWidth 32
  | .pfxVer => s.pfx.ver.setWidth 32
  | .pfxSig i => s.pfx.sig[i].setWidth 32
  | .tgtAlt => s.tgt.alt.setWidth 32
  | .tgtNamed => s.tgt.named.setWidth 32
  | .tgtSize => s.tgt.size
  | .tgtNelem => s.tgt.nelem
  | .tgtSig i => s.tgt.sig[i].setWidth 32
  | .tgtName i => s.tgt.name[i].setWidth 32
  | .elAddr => s.el.addr
  | .elSize => s.el.size
  | .sfxDev => s.sfx.dev.setWidth 32
  | .sfxProd => s.sfx.prod.setWidth 32
  | .sfxVend => s.sfx.vend.setWidth 32
  | .sfxDfu => s.sfx.dfu.setWidth 32
  | .sfxLen => s.sfx.len.setWidth 32
  | .sfxCrc => s.sfx.crc
  | .sfxSig i => s.sfx.sig[i].setWidth 32

/-- A plain host write of data d: a register of width N stores `d[N-1:0]`; a write to a read-only
register is ignored (R34). CMD stores nothing (R17). -/
def State.writeReg (s : State) (r : Reg) (d : Word) : State :=
  match r with
  | .cmd => s
  | .status => s
  | .err => s
  | .errInfo => s
  | .arg0 => { s with arg0 := d }
  | .arg1 => { s with arg1 := d }
  | .arg2 => { s with arg2 := d }
  | .acc => { s with acc := d }
  | .wbase => { s with outWin := { s.outWin with base := d } }
  | .wpos => { s with outWin := { s.outWin with pos := d } }
  | .wlim => { s with outWin := { s.outWin with lim := d } }
  | .rbase => { s with inWin := { s.inWin with base := d } }
  | .rpos => { s with inWin := { s.inWin with pos := d } }
  | .rlim => { s with inWin := { s.inWin with lim := d } }
  | .pfxSize => { s with pfx := { s.pfx with size := d } }
  | .pfxTcnt => { s with pfx := { s.pfx with tcnt := d.setWidth 8 } }
  | .pfxVer => { s with pfx := { s.pfx with ver := d.setWidth 8 } }
  | .pfxSig i => { s with pfx := { s.pfx with sig := s.pfx.sig.set i (d.setWidth 8) } }
  | .tgtAlt => { s with tgt := { s.tgt with alt := d.setWidth 8 } }
  | .tgtNamed => { s with tgt := { s.tgt with named := d.setWidth 8 } }
  | .tgtSize => { s with tgt := { s.tgt with size := d } }
  | .tgtNelem => { s with tgt := { s.tgt with nelem := d } }
  | .tgtSig i => { s with tgt := { s.tgt with sig := s.tgt.sig.set i (d.setWidth 8) } }
  | .tgtName i => { s with tgt := { s.tgt with name := s.tgt.name.set i (d.setWidth 8) } }
  | .elAddr => { s with el := { s.el with addr := d } }
  | .elSize => { s with el := { s.el with size := d } }
  | .sfxDev => { s with sfx := { s.sfx with dev := d.setWidth 16 } }
  | .sfxProd => { s with sfx := { s.sfx with prod := d.setWidth 16 } }
  | .sfxVend => { s with sfx := { s.sfx with vend := d.setWidth 16 } }
  | .sfxDfu => { s with sfx := { s.sfx with dfu := d.setWidth 16 } }
  | .sfxLen => { s with sfx := { s.sfx with len := d.setWidth 8 } }
  | .sfxCrc => { s with sfx := { s.sfx with crc := d } }
  | .sfxSig i => { s with sfx := { s.sfx with sig := s.sfx.sig.set i (d.setWidth 8) } }

/-- `RD number`: an unmapped number reads 0 (R33, R130). -/
def State.readNumber (s : State) (number : RegNum) : Word :=
  match regAt number with
  | some r => s.readReg r
  | none => 0

/-- `WR number, d` for a number other than CMD's: a write to an unmapped number is ignored (R33,
R130). -/
def State.writeNumber (s : State) (number : RegNum) (d : Word) : State :=
  match regAt number with
  | some r => s.writeReg r d
  | none => s

end Sys2Proof.Machine
end

