-- ==== Sys2Proof/Machine/DocModel.lean ====
section
/-! DEFINITION. The document-model commands: `spec/41_docmodel.md` R97 to R103. A size, count or identifier
that would not fit its field faults; no sum wraps (R101). -/

namespace Sys2Proof.Machine

/-- The largest value of a 32-bit field. -/
def maxField32 : Nat := 0xFFFFFFFF

/-- `raise FieldOverflow(number)`: the number of the register that would overflow (R142). -/
def overflowOf (r : Reg) : Trap := ⟨.fieldOverflow, (regNumber r).setWidth 32⟩

/-- The rule of DM.INIT (R98): the identifiers are checked in the order device, vendor, product. -/
def ruleDmInit (s : State) : Except Trap State :=
  let d := s.initDevice
  let v := s.initVendor
  let p := s.initProduct
  if d.toNat > 0xFFFF then .error (overflowOf .arg0)
  else if v.toNat > 0xFFFF then .error (overflowOf .arg1)
  else if p.toNat > 0xFFFF then .error (overflowOf .arg2)
  else .ok { s with
    pfx := { sig := byteArray 5 sigDfuSe, ver := 1, size := 11, tcnt := 0 }
    sfx := { dev := d.setWidth 16, prod := p.setWidth 16, vend := v.setWidth 16, dfu := 0x011A
             sig := byteArray 3 sigUfd, len := 16, crc := 0 }
    tgt := { sig := byteArray 6 (List.replicate 6 0), alt := 0, named := 0
             name := byteArray 255 (List.replicate 255 0), size := 0, nelem := 0 }
    el := { addr := 0, size := 0 } }

/-- DM.INIT: its rule, run in the frame of every command (R131, R144). -/
def execDmInit (s : State) : Result := runCommand ruleDmInit s

/-- The rule of DM.ADDIMG #imm8 (R99): the name bytes are copied as they are and null-padded. -/
def ruleDmAddimg (imm8 : Byte) (s : State) : Except Trap State :=
  let a := s.nameAddr
  let n := s.nameLen
  if n.toNat > 255 then .error ⟨.nameTooLong, n⟩
  else if s.pfx.tcnt.toNat = 255 then .error (overflowOf .pfxTcnt)
  else if s.pfx.size.toNat + tprefixLen > maxField32 then .error (overflowOf .pfxSize)
  else if ¬ s.inMem a.toNat n.toNat then .error ⟨.bufRange, a⟩
  else .ok { s with
    tgt := { sig := byteArray 6 sigTarget, alt := imm8
             named := if 1 ≤ n.toNat then 1 else 0
             name := byteArray 255 (s.readBytes a.toNat n.toNat)
             size := 0, nelem := 0 }
    pfx := { s.pfx with
      tcnt := BitVec.ofNat 8 (s.pfx.tcnt.toNat + 1)
      size := BitVec.ofNat 32 (s.pfx.size.toNat + tprefixLen) } }

/-- DM.ADDIMG #imm8: its rule, run in the frame of every command (R131, R144). -/
def execDmAddimg (imm8 : Byte) (s : State) : Result := runCommand (ruleDmAddimg imm8) s

/-- The rule of DM.ADDEL (R100): the current target and the prefix grow by `size + 8`. -/
def ruleDmAddel (s : State) : Except Trap State :=
  let addr := s.elemAddr
  let size := s.elemSize
  if s.pfx.tcnt.toNat = 0 then .error ⟨.noTarget, 0⟩
  else if s.tgt.size.toNat + size.toNat + elhdrLen > maxField32 then .error (overflowOf .tgtSize)
  else if s.pfx.size.toNat + size.toNat + elhdrLen > maxField32 then .error (overflowOf .pfxSize)
  else if s.tgt.nelem.toNat = maxField32 then .error (overflowOf .tgtNelem)
  else .ok { s with
    el := { addr := addr, size := size }
    tgt := { s.tgt with
      size := BitVec.ofNat 32 (s.tgt.size.toNat + size.toNat + elhdrLen)
      nelem := BitVec.ofNat 32 (s.tgt.nelem.toNat + 1) }
    pfx := { s.pfx with
      size := BitVec.ofNat 32 (s.pfx.size.toNat + size.toNat + elhdrLen) } }

/-- DM.ADDEL: its rule, run in the frame of every command (R131, R144). -/
def execDmAddel (s : State) : Result := runCommand ruleDmAddel s

end Sys2Proof.Machine
end

