-- ==== Sys2Proof/Machine/Pack.lean ====
section
/-! DEFINITION. The pack commands: `spec/42_pack.md` R104 to R117. No pack command validates what it packs
(R107). -/

namespace Sys2Proof.Machine

/-- The rule of PK.PREFIX (R109). -/
def rulePkPrefix (s : State) : Except Trap State :=
  emit (packPrefix s.pfx) s

/-- PK.PREFIX: its rule, run in the frame of every command (R131, R144). -/
def execPkPrefix (s : State) : Result := runCommand rulePkPrefix s

/-- The rule of PK.TPREFIX (R110). -/
def rulePkTprefix (s : State) : Except Trap State :=
  emit (packTprefix s.tgt) s

/-- PK.TPREFIX: its rule, run in the frame of every command (R131, R144). -/
def execPkTprefix (s : State) : Result := runCommand rulePkTprefix s

/-- The rule of PK.ELHDR (R111). -/
def rulePkElhdr (s : State) : Except Trap State :=
  emit (packElhdr s.el) s

/-- PK.ELHDR: its rule, run in the frame of every command (R131, R144). -/
def execPkElhdr (s : State) : Result := runCommand rulePkElhdr s

/-- The rule of PK.DATA (R113): the source bytes are read before any byte is written (R52). -/
def rulePkData (s : State) : Except Trap State :=
  let src := s.dataSource
  let n := s.dataLen
  if ¬ s.inMem src.toNat n then .error ⟨.bufRange, src⟩
  else emit (s.readBytes src.toNat n) s

/-- PK.DATA: its rule, run in the frame of every command (R131, R144). -/
def execPkData (s : State) : Result := runCommand rulePkData s

/-- The rule of PK.SUFFIX (R115): the CRC of the stream so far and of the suffix's first 12 bytes, from the
seed. -/
def rulePkSuffix (s : State) : Except Trap State :=
  let w := s.outWin
  if s.tvalid = false then .error ⟨.tableNotReady, 0⟩
  else if w.base.toNat > w.pos.toNat then .error ⟨.bufRange, w.base⟩
  else if w.pos.toNat + suffixLen > w.lim.toNat then .error ⟨.ioWriteShort, w.pos⟩
  else if w.pos.toNat + suffixLen > s.memBytes then .error ⟨.bufRange, w.pos⟩
  else
    let body := s.readBytes w.base.toNat (w.pos.toNat - w.base.toNat)
    let s12 := packSuffix12 s.sfx
    let c := crcUpdateTbl s.tbl crcSeed (body ++ s12)
    emit (s12 ++ le32 c) { s with sfx := { s.sfx with crc := c }, acc := c }

/-- PK.SUFFIX: its rule, run in the frame of every command (R131, R144). -/
def execPkSuffix (s : State) : Result := runCommand rulePkSuffix s

end Sys2Proof.Machine
end

