-- ==== Sys2Proof/Machine/System.lean ====
section
/-! DEFINITION. The system commands: `spec/44_system.md` R129 to R135. -/

namespace Sys2Proof.Machine

/-- The rule of NOP (R132): no register and no MEM byte changes. -/
def ruleNop (s : State) : Except Trap State :=
  .ok s

/-- NOP: its rule, run in the frame of every command (R131, R144). -/
def execNop (s : State) : Result := runCommand ruleNop s

/-- SYS.RESET (R133): the one command that runs while a fault is latched (R144), so it is outside
`runCommand`. -/
def execSysReset (s : State) : Result := .next (softReset s)

end Sys2Proof.Machine
end

