-- ==== Sys2Proof/Machine/Unpack.lean ====
section
/-! DEFINITION. The unpack commands: `spec/43_unpack.md` R118 to R128. No unpack command validates what it
reads (R120). -/

namespace Sys2Proof.Machine

/-- Consume `n` bytes of the input window and load them (R118): the shape of UP.PREFIX, UP.TPREFIX and
UP.ELHDR. -/
def loadStream (n : Nat) (load : List Byte → State → State) (s : State) : Except Trap State :=
  match takeStream n s with
  | .ok (bs, t) => .ok (load bs t)
  | .error e => .error e

/-- The rule of UP.PREFIX (R121). -/
def ruleUpPrefix (s : State) : Except Trap State :=
  loadStream prefixLen (fun bs t => { t with pfx := unpackPrefix bs }) s

/-- UP.PREFIX: its rule, run in the frame of every command (R131, R144). -/
def execUpPrefix (s : State) : Result := runCommand ruleUpPrefix s

/-- The rule of UP.TPREFIX (R122). -/
def ruleUpTprefix (s : State) : Except Trap State :=
  loadStream tprefixLen (fun bs t => { t with tgt := unpackTprefix bs }) s

/-- UP.TPREFIX: its rule, run in the frame of every command (R131, R144). -/
def execUpTprefix (s : State) : Result := runCommand ruleUpTprefix s

/-- The rule of UP.ELHDR (R123). -/
def ruleUpElhdr (s : State) : Except Trap State :=
  loadStream elhdrLen (fun bs t => { t with el := unpackElhdr bs }) s

/-- UP.ELHDR: its rule, run in the frame of every command (R131, R144). -/
def execUpElhdr (s : State) : Result := runCommand ruleUpElhdr s

/-- The rule of UP.DATA (R125): the stream bytes are read before any byte is written (R52). -/
def ruleUpData (s : State) : Except Trap State :=
  let dst := s.dataDest
  let n := s.dataLen
  if ¬ s.inMem dst.toNat n then .error ⟨.bufRange, dst⟩
  else loadStream n (fun bs t => t.writeBytes dst.toNat bs) s

/-- UP.DATA: its rule, run in the frame of every command (R131, R144). -/
def execUpData (s : State) : Result := runCommand ruleUpData s

/-- The rule of UP.SUFFIX (R126): the stored CRC goes to SFX_CRC and the recomputed CRC to ACC; they are
not compared. -/
def ruleUpSuffix (s : State) : Except Trap State :=
  let w := s.inWin
  if s.tvalid = false then .error ⟨.tableNotReady, 0⟩
  else if w.base.toNat > w.pos.toNat then .error ⟨.bufRange, w.base⟩
  else if w.pos.toNat + suffixLen > w.lim.toNat then .error ⟨.ioReadShort, w.pos⟩
  else if w.pos.toNat + suffixLen > s.memBytes then .error ⟨.bufRange, w.pos⟩
  else
    let body := s.readBytes w.base.toNat (w.pos.toNat - w.base.toNat)
    loadStream suffixLen (fun bs t =>
      { t with
        sfx := unpackSuffix bs
        acc := crcUpdateTbl t.tbl crcSeed (body ++ slice bs 0 12) }) s

/-- UP.SUFFIX: its rule, run in the frame of every command (R131, R144). -/
def execUpSuffix (s : State) : Result := runCommand ruleUpSuffix s

end Sys2Proof.Machine
end

