-- ==== Sys2Proof/Machine/Dispatch.lean ====
section
/-! DEFINITION. The meaning of every command, one arm per row of the opcode table (`spec/30_encoding.md`
R66). -/

namespace Sys2Proof.Machine

def exec (i : Instr) (s : State) : Host.Outcome State Fault Refusal :=
  match i with
  | .nop => Sys2Proof.Machine.execNop s
  | .sysReset => Sys2Proof.Machine.execSysReset s
  | .crcTinit => Sys2Proof.Machine.execCrcTinit s
  | .crcSeed => Sys2Proof.Machine.execCrcSeed s
  | .crcByte imm8 => Sys2Proof.Machine.execCrcByte imm8 s
  | .crcBlock => Sys2Proof.Machine.execCrcBlock s
  | .dmInit => Sys2Proof.Machine.execDmInit s
  | .dmAddimg imm8 => Sys2Proof.Machine.execDmAddimg imm8 s
  | .dmAddel => Sys2Proof.Machine.execDmAddel s
  | .pkPrefix => Sys2Proof.Machine.execPkPrefix s
  | .pkTprefix => Sys2Proof.Machine.execPkTprefix s
  | .pkElhdr => Sys2Proof.Machine.execPkElhdr s
  | .pkData => Sys2Proof.Machine.execPkData s
  | .pkSuffix => Sys2Proof.Machine.execPkSuffix s
  | .upPrefix => Sys2Proof.Machine.execUpPrefix s
  | .upTprefix => Sys2Proof.Machine.execUpTprefix s
  | .upElhdr => Sys2Proof.Machine.execUpElhdr s
  | .upData => Sys2Proof.Machine.execUpData s
  | .upSuffix => Sys2Proof.Machine.execUpSuffix s

end Sys2Proof.Machine
end

