-- ==== Sys2Proof/Machine/HostAccess.lean ====
section
/-! DEFINITION. What a host action does: `spec/44_system.md` R130, R131, `spec/20_memory.md` R41,
`spec/70_reset_and_hazards.md` R153. A step takes the next action of the script. -/

namespace Sys2Proof.Machine

/-- `WR CMD, w`: decode and run (R63, R131). An illegal word raises IllegalCmd with the word in ERRINFO
(R62, R64, R142), unless a fault is latched (R144), which `raise` tests. -/
def commandWrite (w : Word) (s : State) : Result :=
  match decode w with
  | .ok i => exec i s
  | .error _ => .next (raise ⟨.illegalCmd, w⟩ s)

/-- `WR number, d`: to CMD it runs a command, else it is a plain register write (R130, R131). -/
def registerWrite (number : RegNum) (d : Word) (s : State) : Result :=
  if number = regNumber .cmd then commandWrite d s else .next (s.writeNumber number d)

/-- One well-formed host action. -/
def performAction (a : HostAction) (s : State) : Result :=
  match a with
  | .rd number => .next { s with reply := .word (s.readNumber number) }
  | .wr number d => registerWrite number d s
  | .memRd addr n => .next { s with reply := .bytes (s.readBytes addr.toNat n) }
  | .memWr addr bs => .next (s.writeBytes addr.toNat bs)
  | .hardReset => .next (hardReset s)

/-- The state in which the next action acts: it is no longer to come, and nothing has been returned to
the host yet. -/
def State.begin (s : State) (rest : List HostAction) : State :=
  { s with script := rest, reply := .nothing }

/-- Take the next action of the script (R15, R53). A MEM access outside MEM is no move of the spec (R41,
U3). With no action to come the block waits (R153; log entry 4). -/
def takeAction (s : State) : Result :=
  match s.script with
  | [] => .next s
  | a :: rest =>
    if a.wf s.memBytes then performAction a (s.begin rest) else .refused .hostAccessOutsideMem

/-- The host's next action becomes the write of a command word to CMD; the words above `nbits` bits
are zero. -/
def State.withCommandWord (s : State) (nbits w : Nat) : State :=
  { s with script := .wr (regNumber .cmd) (BitVec.ofNat 32 (w % 2 ^ nbits)) :: s.script }

end Sys2Proof.Machine
end

