-- ==== Sys2Proof/Machine/Step.lean ====
section
/-! DEFINITION. The step of the machine: one host action (`spec/00_scope.md` R15). -/

namespace Sys2Proof.Machine

/-- One step: the next host action takes effect completely (R15, R53). -/
def step (s : State) : Host.Outcome State Fault Refusal := takeAction s

/-- The block fetches nothing (R3, R36): its next command is the next word the host writes to CMD, so
the word is put there (log entry 4). -/
def State.withFetchWord (s : State) (nbits w : Nat) : State := s.withCommandWord nbits w

end Sys2Proof.Machine
end

