-- ==== Sys2Proof/Safety.lean ====
section
/-! DEFINITION. The vocabulary of the claims: the invariant of the machine, the faulted state, the order of
the faults, what a stream command appends, and the document-model log of `spec/41_docmodel.md` R101. -/

namespace Sys2Proof.Machine

/-! ### The faulted state -/

/-- The state after a fault is taken: ERR and ERRINFO written, all else as it was (R143). -/
def State.latched (s : State) (e : Trap) : State :=
  { s with err := faultCode e.kind, errInfo := e.info }

/-- The codes ERR can hold (R141): 0, and the kinds that are raised; never a reserved code and never
14 to 255. -/
def liveCodes : List Byte := [0, 5, 7, 8, 9, 10, 11, 12, 13]

/-- The fault kinds a command can raise by itself, the column "raised by" of the table of R141
(IllegalCmd is raised by the write to CMD, not by a command). -/
def raisedBy : Instr → List FaultKind
  | .nop => []
  | .sysReset => []
  | .crcTinit => []
  | .crcSeed => []
  | .crcByte _ => [.tableNotReady]
  | .crcBlock => [.tableNotReady, .bufRange]
  | .dmInit => [.fieldOverflow]
  | .dmAddimg _ => [.nameTooLong, .fieldOverflow, .bufRange]
  | .dmAddel => [.noTarget, .fieldOverflow]
  | .pkPrefix => [.ioWriteShort, .bufRange]
  | .pkTprefix => [.ioWriteShort, .bufRange]
  | .pkElhdr => [.ioWriteShort, .bufRange]
  | .pkData => [.bufRange, .ioWriteShort]
  | .pkSuffix => [.tableNotReady, .bufRange, .ioWriteShort]
  | .upPrefix => [.ioReadShort, .bufRange]
  | .upTprefix => [.ioReadShort, .bufRange]
  | .upElhdr => [.ioReadShort, .bufRange]
  | .upData => [.bufRange, .ioReadShort]
  | .upSuffix => [.tableNotReady, .bufRange, .ioReadShort]

/-- A condition and the fault taken when it holds. -/
abbrev Check := Bool × Trap

/-- The checks of an `Emit` of n bytes (R50): they must fit below WLIM, then inside MEM. -/
def emitChecks (s : State) (n : Nat) : List Check :=
  [(decide (0 < n ∧ s.outWin.lim.toNat < s.outWin.pos.toNat + n), ⟨.ioWriteShort, s.outWin.pos⟩),
   (decide (0 < n ∧ s.memBytes < s.outWin.pos.toNat + n), ⟨.bufRange, s.outWin.pos⟩)]

/-- The checks of a `Take` of n bytes (R51). -/
def takeChecks (s : State) (n : Nat) : List Check :=
  [(decide (0 < n ∧ s.inWin.lim.toNat < s.inWin.pos.toNat + n), ⟨.ioReadShort, s.inWin.pos⟩),
   (decide (0 < n ∧ s.memBytes < s.inWin.pos.toNat + n), ⟨.bufRange, s.inWin.pos⟩)]

/-- The range check of a command on `MEM[a..a+n)` (R46). -/
def rangeCheck (s : State) (a : Word) (n : Nat) : Check :=
  (decide (0 < n ∧ s.memBytes < a.toNat + n), ⟨.bufRange, a⟩)

/-- `TVALID = 0` (R90). -/
def tableCheck (s : State) : Check := (!s.tvalid, ⟨.tableNotReady, 0⟩)

/-- The checks of every command in the order of R146, with the ERRINFO values of R142. -/
def faultChecks (i : Instr) (s : State) : List Check :=
  match i with
  | .nop => []
  | .sysReset => []
  | .crcTinit => []
  | .crcSeed => []
  | .crcByte _ => [tableCheck s]
  | .crcBlock => [tableCheck s, rangeCheck s s.arg0 s.arg1.toNat]
  | .dmInit =>
    [(decide (0xFFFF < s.arg0.toNat), ⟨.fieldOverflow, 0x04⟩),
     (decide (0xFFFF < s.arg1.toNat), ⟨.fieldOverflow, 0x05⟩),
     (decide (0xFFFF < s.arg2.toNat), ⟨.fieldOverflow, 0x06⟩)]
  | .dmAddimg _ =>
    [(decide (255 < s.arg1.toNat), ⟨.nameTooLong, s.arg1⟩),
     (decide (s.pfx.tcnt = 255), ⟨.fieldOverflow, 0x21⟩),
     (decide (0xFFFFFFFF < s.pfx.size.toNat + 271), ⟨.fieldOverflow, 0x20⟩),
     rangeCheck s s.arg0 s.arg1.toNat]
  | .dmAddel =>
    [(decide (s.pfx.tcnt = 0), ⟨.noTarget, 0⟩),
     (decide (0xFFFFFFFF < s.tgt.size.toNat + s.arg1.toNat + 8), ⟨.fieldOverflow, 0x32⟩),
     (decide (0xFFFFFFFF < s.pfx.size.toNat + s.arg1.toNat + 8), ⟨.fieldOverflow, 0x20⟩),
     (decide (s.tgt.nelem = 0xFFFFFFFF), ⟨.fieldOverflow, 0x33⟩)]
  | .pkPrefix => emitChecks s 11
  | .pkTprefix => emitChecks s 271
  | .pkElhdr => emitChecks s 8
  | .pkData => rangeCheck s s.arg0 s.arg1.toNat :: emitChecks s s.arg1.toNat
  | .pkSuffix =>
    tableCheck s :: (decide (s.outWin.pos.toNat < s.outWin.base.toNat), ⟨.bufRange, s.outWin.base⟩)
      :: emitChecks s 16
  | .upPrefix => takeChecks s 11
  | .upTprefix => takeChecks s 271
  | .upElhdr => takeChecks s 8
  | .upData => rangeCheck s s.arg0 s.arg1.toNat :: takeChecks s s.arg1.toNat
  | .upSuffix =>
    tableCheck s :: (decide (s.inWin.pos.toNat < s.inWin.base.toNat), ⟨.bufRange, s.inWin.base⟩)
      :: takeChecks s 16

/-- The fault of a command: the first check, in the written order, that holds (R146). -/
def firstFault (i : Instr) (s : State) : Option Trap :=
  ((faultChecks i s).find? fun c => c.1).map fun c => c.2

/-! ### Invariant -/

/-- The table is built and holds the constants of R85. -/
abbrev State.tableBuilt (s : State) : Prop := s.tvalid = true ∧ s.tbl = crcTable

/-- What every step keeps: MEM_BYTES is legal (R7) and MEM lists only addresses below it, in the
canonical form; a valid table holds the constants (R23, R90); ERR holds a code of R141, and ERRINFO is 0
while no fault is latched (R19, R20, R133, R143). -/
structure State.Inv (s : State) : Prop where
  memBytes_pos : 1 ≤ s.memBytes
  memBytes_le : s.memBytes ≤ Config.maxMemBytes
  mem_wf : s.mem.wf
  mem_inside : ∀ c ∈ s.mem, c.1 < s.memBytes
  table : s.tvalid = true → s.tbl = crcTable
  err_live : s.err ∈ liveCodes
  errInfo_clear : s.err = 0 → s.errInfo = 0

/-- The expected state of a window (R48, R49): base, position and limit in order, inside MEM. -/
abbrev Window.ordered (w : Window) (memBytes : Nat) : Prop :=
  w.base.toNat ≤ w.pos.toNat ∧ w.pos.toNat ≤ w.lim.toNat ∧ w.lim.toNat ≤ memBytes

/-! ### Which command writes which state -/

/-- The commands that write ACC besides SYS.RESET (R22). -/
def writesAcc : Instr → Bool
  | .crcSeed => true
  | .crcByte _ => true
  | .crcBlock => true
  | .pkSuffix => true
  | .upSuffix => true
  | _ => false

/-- The pack commands: they alone move WPOS (R24, R106). -/
def movesOut : Instr → Bool
  | .pkPrefix => true
  | .pkTprefix => true
  | .pkElhdr => true
  | .pkData => true
  | .pkSuffix => true
  | _ => false

/-- The unpack commands: they alone move RPOS (R25, R118). -/
def movesIn : Instr → Bool
  | .upPrefix => true
  | .upTprefix => true
  | .upElhdr => true
  | .upData => true
  | .upSuffix => true
  | _ => false

/-- The commands that write MEM: the pack commands and UP.DATA (R45, R120). -/
def writesMem (i : Instr) : Bool := movesOut i || i == .upData

/-- The commands that write prefix registers (R98 to R100, R121). -/
def writesPfx : Instr → Bool
  | .dmInit => true
  | .dmAddimg _ => true
  | .dmAddel => true
  | .upPrefix => true
  | _ => false

/-- The commands that write target-prefix registers (R98 to R100, R122). -/
def writesTgt : Instr → Bool
  | .dmInit => true
  | .dmAddimg _ => true
  | .dmAddel => true
  | .upTprefix => true
  | _ => false

/-- The commands that write element registers (R30, R98). -/
def writesEl : Instr → Bool
  | .dmInit => true
  | .dmAddel => true
  | .upElhdr => true
  | _ => false

/-- The commands that write suffix registers (R31, R98, R106, R126). -/
def writesSfx : Instr → Bool
  | .dmInit => true
  | .pkSuffix => true
  | .upSuffix => true
  | _ => false

/-! ### Reset values and the register map -/

/-- Every register that both resets clear holds the value in the table of R38. -/
abbrev State.registersReset (s : State) : Prop :=
  s.err = 0 ∧ s.errInfo = 0
  ∧ s.arg0 = 0 ∧ s.arg1 = 0 ∧ s.arg2 = 0 ∧ s.acc = 0xFFFFFFFF
  ∧ (s.outWin.base = 0 ∧ s.outWin.pos = 0 ∧ s.outWin.lim = 0)
  ∧ (s.inWin.base = 0 ∧ s.inWin.pos = 0 ∧ s.inWin.lim = 0)
  ∧ (s.pfx.size = 0 ∧ s.pfx.tcnt = 0 ∧ s.pfx.ver = 0 ∧ ∀ i : Fin 5, s.pfx.sig[i] = 0)
  ∧ (s.tgt.alt = 0 ∧ s.tgt.named = 0 ∧ s.tgt.size = 0 ∧ s.tgt.nelem = 0
      ∧ (∀ i : Fin 6, s.tgt.sig[i] = 0) ∧ ∀ i : Fin 255, s.tgt.name[i] = 0)
  ∧ (s.el.addr = 0 ∧ s.el.size = 0)
  ∧ (s.sfx.dev = 0 ∧ s.sfx.prod = 0 ∧ s.sfx.vend = 0 ∧ s.sfx.dfu = 0 ∧ s.sfx.len = 0 ∧ s.sfx.crc = 0
      ∧ ∀ i : Fin 3, s.sfx.sig[i] = 0)

/-- The register numbers in the table of R32, as ranges; every other number is unmapped (R33). -/
abbrev mappedNumber (n : Nat) : Prop :=
  n ≤ 0x06 ∨ n = 0x08 ∨ (0x10 ≤ n ∧ n ≤ 0x12) ∨ (0x14 ≤ n ∧ n ≤ 0x16) ∨ (0x20 ≤ n ∧ n ≤ 0x22)
  ∨ (0x28 ≤ n ∧ n ≤ 0x2C) ∨ (0x30 ≤ n ∧ n ≤ 0x33) ∨ (0x38 ≤ n ∧ n ≤ 0x3D) ∨ n = 0x40 ∨ n = 0x41
  ∨ (0x50 ≤ n ∧ n ≤ 0x55) ∨ (0x58 ≤ n ∧ n ≤ 0x5A) ∨ (0x100 ≤ n ∧ n ≤ 0x1FE)

/-! ### Bytes of MEM -/

/-- Every byte outside `MEM[a..a+n)` reads as before. -/
def SameOutside (s t : State) (a n : Nat) : Prop :=
  ∀ x, (x < a ∨ a + n ≤ x) → t.readByte x = s.readByte x

/-- `un_le32` of the four bytes of MEM at `a`, as a number (R11). -/
def State.le32At (s : State) (a : Nat) : Nat :=
  (s.readByte a).toNat + 256 * (s.readByte (a + 1)).toNat + 65536 * (s.readByte (a + 2)).toNat
    + 16777216 * (s.readByte (a + 3)).toNat

/-- `un_le16` of the two bytes of MEM at `a`, as a number (R11). -/
def State.le16At (s : State) (a : Nat) : Nat :=
  (s.readByte a).toNat + 256 * (s.readByte (a + 1)).toNat

/-- What a pack command that appends `bytes s` does (R106), with no fault latched. If the bytes fit below
WLIM and inside MEM, it answers a next state in which they stand at WPOS, every other byte of MEM reads
as before, WPOS is past them, and nothing else has changed. If they do not fit below WLIM it takes
IoWriteShort, else BufRange, each with ERRINFO = WPOS and no other effect. -/
def Appends (i : Instr) (bytes : State → List Byte) : Prop :=
  ∀ s : State, s.err = 0 →
    let p := s.outWin.pos
    let n := (bytes s).length
    (p.toNat + n ≤ s.outWin.lim.toNat → p.toNat + n ≤ s.memBytes →
      ∃ t, exec i s = .next t
        ∧ t = { s with mem := t.mem, outWin := { s.outWin with pos := t.outWin.pos } }
        ∧ t.readBytes p.toNat n = bytes s
        ∧ SameOutside s t p.toNat n
        ∧ t.outWin.pos.toNat = p.toNat + n)
    ∧ (0 < n → s.outWin.lim.toNat < p.toNat + n →
        exec i s = .next (s.latched ⟨.ioWriteShort, p⟩))
    ∧ (0 < n → p.toNat + n ≤ s.outWin.lim.toNat → s.memBytes < p.toNat + n →
        exec i s = .next (s.latched ⟨.bufRange, p⟩))

/-- What an unpack command that consumes `n` bytes does (R120), with no fault latched. If the bytes are
below RLIM and inside MEM, it answers a next state `t` with `loaded s t`, RPOS past them, every byte of
MEM as before, and `frame s t`. If not below RLIM it takes IoReadShort, else BufRange, each with ERRINFO
= RPOS and no other effect. -/
def Consumes (i : Instr) (n : Nat) (loaded frame : State → State → Prop) : Prop :=
  ∀ s : State, s.err = 0 →
    let p := s.inWin.pos
    (p.toNat + n ≤ s.inWin.lim.toNat → p.toNat + n ≤ s.memBytes →
      ∃ t, exec i s = .next t ∧ loaded s t ∧ frame s t ∧ t.inWin.pos.toNat = p.toNat + n)
    ∧ (s.inWin.lim.toNat < p.toNat + n → exec i s = .next (s.latched ⟨.ioReadShort, p⟩))
    ∧ (p.toNat + n ≤ s.inWin.lim.toNat → s.memBytes < p.toNat + n →
        exec i s = .next (s.latched ⟨.bufRange, p⟩))

/-! ### The document-model log (R101) -/

/-- What a document-model command adds to the document: an image, or an element of a size. -/
inductive DocEvent where
  | image
  | element (size : Nat)
  deriving DecidableEq, Repr

/-- A sequence that starts with a successful DM.INIT, continues with successful DM.ADDIMG and DM.ADDEL
commands, mixed with anything that writes no PFX, TGT or EL register, and latches no fault (R101). The
log lists the images and elements, the newest first. -/
inductive DocRun : List DocEvent → State → Prop where
  | init {s t : State} : s.err = 0 → exec .dmInit s = .next t → t.err = 0 → DocRun [] t
  | image {log : List DocEvent} {s t : State} (alt : Byte) :
      DocRun log s → exec (.dmAddimg alt) s = .next t → t.err = 0 → DocRun (.image :: log) t
  | element {log : List DocEvent} {s t : State} :
      DocRun log s → exec .dmAddel s = .next t → t.err = 0 →
      DocRun (.element s.arg1.toNat :: log) t
  | other {log : List DocEvent} {s t : State} :
      DocRun log s → t.pfx = s.pfx → t.tgt = s.tgt → t.el = s.el → t.err = 0 → DocRun log t

/-- The number of images of a log. -/
def imageCount : List DocEvent → Nat
  | [] => 0
  | .image :: log => imageCount log + 1
  | .element _ :: log => imageCount log

/-- The sum of size + 8 over all elements of a log. -/
def elementBytes : List DocEvent → Nat
  | [] => 0
  | .image :: log => elementBytes log
  | .element n :: log => elementBytes log + (n + 8)

/-- The elements of the last image of a log. -/
def lastImage : List DocEvent → List DocEvent
  | [] => []
  | .image :: _ => []
  | .element n :: log => .element n :: lastImage log

/-! ### A whole file (R74, R80, R81) -/

/-- An element: its header fields and its payload (R77). -/
structure DfuElement where
  hdr : ElementRegs
  data : List Byte
  deriving DecidableEq, Repr

/-- An image: its target prefix and its elements, in order (R74). -/
structure DfuImage where
  hdr : TargetRegs
  elements : List DfuElement
  deriving DecidableEq, Repr

/-- A DfuSe file: prefix, images in order, suffix (R74). -/
structure DfuFile where
  pfx : PrefixRegs
  images : List DfuImage
  sfx : SuffixRegs
  deriving DecidableEq, Repr

/-- Header, then payload (R77). -/
def DfuElement.bytes (e : DfuElement) : List Byte := packElhdr e.hdr ++ e.data

/-- Target prefix, then each element (R74). -/
def DfuImage.bytes (m : DfuImage) : List Byte :=
  packTprefix m.hdr ++ (m.elements.map DfuElement.bytes).flatten

/-- The stream before the suffix: prefix, then each image (R74). -/
def DfuFile.body (f : DfuFile) : List Byte :=
  packPrefix f.pfx ++ (f.images.map DfuImage.bytes).flatten

/-- The file: the body, then the suffix, with no padding (R74). -/
def DfuFile.bytes (f : DfuFile) : List Byte := f.body ++ packSuffix f.sfx

/-- The size and count invariants of a well-formed file (R80), the payload length of every element
(R77), and the CRC field (R81). -/
structure DfuFile.wellFormed (f : DfuFile) : Prop where
  target_count : f.pfx.tcnt.toNat = f.images.length
  num_elements : ∀ m ∈ f.images, m.hdr.nelem.toNat = m.elements.length
  payload : ∀ m ∈ f.images, ∀ e ∈ m.elements, e.data.length = e.hdr.size.toNat
  target_size : ∀ m ∈ f.images,
    m.hdr.size.toNat = (m.elements.map fun e => e.hdr.size.toNat + 8).sum
  dfu_image_size :
    f.pfx.size.toNat = 11 + (f.images.map fun m => 271 + m.hdr.size.toNat).sum
  crc : f.sfx.crc = crcUpdate 0xFFFFFFFF (f.body ++ packSuffix12 f.sfx)

end Sys2Proof.Machine
end

