-- ==== Sys2Proof/Certificates/Slice0/Obligations.lean ====
section
/-! DEFINITION. The statements for the provers, from the numbered rules of `spec/`. Each docstring names the
rules it formalises; a statement about a choice of the model says so. -/

open Sys2Proof Sys2Proof.Machine

/-! ### Encoding -/

/-- R59, R63, R66: a word decodes to a command exactly when it is the word of that well-formed command; so
decode after encode is the identity for all 19 commands and every immediate, and no command has a second
word. -/
def Obligations.DecodeEncodeAgree : Prop :=
  ∀ (w : Word) (i : Instr), decode w = .ok i ↔ i.wf = true ∧ encode i = w

/-- The worked encodings of R69, which the spec marks as its own inference ("derived: from rule R59, rule
R62 and rule R66"): its six legal words and its four illegal ones. -/
def Obligations.WorkedEncodings : Prop :=
  decode 0x00000011 = .ok .crcSeed
  ∧ decode 0x00003112 = .ok (.crcByte 0x31)
  ∧ decode 0x00000012 = .ok (.crcByte 0x00)
  ∧ decode 0x00000021 = .ok (.dmAddimg 0x00)
  ∧ decode 0x00000221 = .ok (.dmAddimg 0x02)
  ∧ decode 0x00000034 = .ok .pkSuffix
  ∧ (∀ i, decode 0x00000111 ≠ .ok i)
  ∧ (∀ i, decode 0x00010012 ≠ .ok i)
  ∧ (∀ i, decode 0x00000002 ≠ .ok i)
  ∧ (∀ i, decode 0xFFFFFFFF ≠ .ok i)

/-- R68, which the spec marks as its own inference ("derived: from rule R59 and rule R66"): a word encodes
a row's command exactly when `w & mask == match`; the masks of the two formats; `imm8` at bits 15:8; at
most one row matches a word; a word that matches no row is illegal. -/
def Obligations.LegalWordsAreTheTableRows : Prop :=
  ∀ w : Word,
    (∀ i, decode w = .ok i → w &&& (tableRow i).mask = (tableRow i).pattern)
    ∧ (∀ i, w &&& (tableRow i).mask = (tableRow i).pattern →
        ∃ j, decode w = .ok j ∧ tableRow j = tableRow i)
    ∧ (∀ i j, w &&& (tableRow i).mask = (tableRow i).pattern →
        w &&& (tableRow j).mask = (tableRow j).pattern → tableRow i = tableRow j)
    ∧ (∀ imm8, decode w = .ok (.crcByte imm8) ∨ decode w = .ok (.dmAddimg imm8) →
        imm8 = w.extractLsb' 8 8)
    ∧ (∀ i, (tableRow i).mask =
        match i with
        | .crcByte _ | .dmAddimg _ => 0xFFFF00FF
        | _ => 0xFFFFFFFF)
    ∧ ((∀ i, w &&& (tableRow i).mask ≠ (tableRow i).pattern) → ∃ r, decode w = .error r)

/-- R62 and R64, whole: a word with a non-zero `zero` field, or an opcode outside the 19, or a format N
opcode with a non-zero `imm8`, raises IllegalCmd (code 9) with the word in ERRINFO and changes nothing
else. The script loses the action taken and nothing is returned to the host. -/
def Obligations.IllegalWordsRaiseIllegalCmd : Prop :=
  ∀ (s : State) (w : Word) (rest : List HostAction),
    s.script = .wr 0x00 w :: rest → s.err = 0 →
    (let op := (w.extractLsb' 0 8).toNat
     w.extractLsb' 16 16 ≠ 0
     ∨ (0x02 ≤ op ∧ op ≤ 0x0F) ∨ (0x14 ≤ op ∧ op ≤ 0x1F) ∨ (0x23 ≤ op ∧ op ≤ 0x2F)
     ∨ (0x35 ≤ op ∧ op ≤ 0x3F) ∨ 0x45 ≤ op
     ∨ (w.extractLsb' 8 8 ≠ 0 ∧ op ≠ 0x12 ∧ op ≠ 0x21)) →
    step s = .next { s with script := rest, reply := .nothing, err := 9, errInfo := w }

/-! ### The step -/

/-- R63, R131: when the word the host writes to CMD (its next action in the script, log entry 4) decodes
to a well-formed command, the step is that command run on the state whose script has lost the action and
which has returned nothing to the host yet. -/
def Obligations.StepRunsTheDecodedCommand : Prop :=
  ∀ (s : State) (w : Word) (rest : List HostAction) (i : Instr),
    s.script = .wr 0x00 w :: rest → decode w = .ok i → i.wf = true →
    step s = exec i { s with script := rest, reply := .nothing }

/-- R144: while a fault is latched, a write of any word other than SYS.RESET's to CMD has no effect at
all, legal or not. -/
def Obligations.LatchedFaultBlocksCommands : Prop :=
  ∀ (s : State) (w : Word) (rest : List HostAction),
    s.script = .wr 0x00 w :: rest → s.err ≠ 0 → w ≠ 0x00000001 →
    step s = .next { s with script := rest, reply := .nothing }

/-- R131 ("Every command ends"), R143: every command answers a next state, from every state. That a step
refuses exactly a host MEM access that does not lie inside MEM is the model's reading of U3 (log entry 8). -/
def Obligations.OnlyForeignMemAccessStops : Prop :=
  (∀ (i : Instr) (s : State), ∃ t, exec i s = .next t)
  ∧ ∀ s : State,
      ((∃ t, step s = .next t) ∨ step s = .refused .hostAccessOutsideMem)
      ∧ (step s = .refused .hostAccessOutsideMem ↔
          ∃ rest, (∃ a n, s.script = .memRd a n :: rest ∧ s.memBytes < a.toNat + n)
            ∨ (∃ a bs, s.script = .memWr a bs :: rest ∧ s.memBytes < a.toNat + bs.length))

/-- The model's reading of R153 "the block waits for host accesses" (log entry 4): with no host action to
come, the step answers the same state. -/
def Obligations.NoActionChangesNothing : Prop :=
  ∀ s : State, s.script = [] → step s = .next s

/-! ### Host accesses -/

/-- R32: the register map, its widths and the three kinds of host access of its last column (CMD write-only;
STATUS, ERR, ERRINFO read-only; all others read and write), and no other number mapped. What each kind of
access does is `RegisterAccess`. -/
def Obligations.RegisterMap : Prop :=
  (∀ row ∈ [(0x00, Reg.cmd, 32, Access.writeOnly), (0x01, .status, 32, .readOnly),
      (0x02, .err, 8, .readOnly), (0x03, .errInfo, 32, .readOnly), (0x04, .arg0, 32, .readWrite),
      (0x05, .arg1, 32, .readWrite), (0x06, .arg2, 32, .readWrite), (0x08, .acc, 32, .readWrite),
      (0x10, .wbase, 32, .readWrite), (0x11, .wpos, 32, .readWrite), (0x12, .wlim, 32, .readWrite),
      (0x14, .rbase, 32, .readWrite), (0x15, .rpos, 32, .readWrite), (0x16, .rlim, 32, .readWrite),
      (0x20, .pfxSize, 32, .readWrite), (0x21, .pfxTcnt, 8, .readWrite), (0x22, .pfxVer, 8, .readWrite),
      (0x30, .tgtAlt, 8, .readWrite), (0x31, .tgtNamed, 8, .readWrite), (0x32, .tgtSize, 32, .readWrite),
      (0x33, .tgtNelem, 32, .readWrite), (0x40, .elAddr, 32, .readWrite), (0x41, .elSize, 32, .readWrite),
      (0x50, .sfxDev, 16, .readWrite), (0x51, .sfxProd, 16, .readWrite), (0x52, .sfxVend, 16, .readWrite),
      (0x53, .sfxDfu, 16, .readWrite), (0x54, .sfxLen, 8, .readWrite), (0x55, .sfxCrc, 32, .readWrite)],
    regAt (BitVec.ofNat 12 row.1) = some row.2.1 ∧ regWidth row.2.1 = row.2.2.1
      ∧ regAccess row.2.1 = row.2.2.2)
  ∧ (∀ i : Fin 5, regAt (BitVec.ofNat 12 (0x28 + i)) = some (.pfxSig i)
      ∧ regWidth (.pfxSig i) = 8 ∧ regAccess (.pfxSig i) = .readWrite)
  ∧ (∀ i : Fin 6, regAt (BitVec.ofNat 12 (0x38 + i)) = some (.tgtSig i)
      ∧ regWidth (.tgtSig i) = 8 ∧ regAccess (.tgtSig i) = .readWrite)
  ∧ (∀ i : Fin 3, regAt (BitVec.ofNat 12 (0x58 + i)) = some (.sfxSig i)
      ∧ regWidth (.sfxSig i) = 8 ∧ regAccess (.sfxSig i) = .readWrite)
  ∧ (∀ i : Fin 255, regAt (BitVec.ofNat 12 (0x100 + i)) = some (.tgtName i)
      ∧ regWidth (.tgtName i) = 8 ∧ regAccess (.tgtName i) = .readWrite)
  ∧ ∀ n : RegNum, regAt n = none ↔ ¬ mappedNumber n.toNat

/-- R33, whole: a read of an unmapped number returns 0, a write to it is ignored; no fault, no state
change (but for the script and what is returned to the host), whether or not a fault is latched. -/
def Obligations.UnmappedNumbersAreInert : Prop :=
  ∀ (s : State) (n : RegNum) (d : Word) (rest : List HostAction), ¬ mappedNumber n.toNat →
    (s.script = .rd n :: rest →
      step s = .next { s with script := rest, reply := .word 0 })
    ∧ (s.script = .wr n d :: rest →
      step s = .next { s with script := rest, reply := .nothing })

/-- R17 to R22, R24 to R34, R130, R145: reads and writes of registers, whatever ERR holds. First the value of
every mapped number: CMD reads 0, STATUS is its view, and every other number reads the field of the state it
names, zero-extended. Then the accesses: a read returns that value and changes nothing; a write of d to a
read-write register of width N leaves `d[N-1:0]` in it; a write to a read-only register is ignored. -/
def Obligations.RegisterAccess : Prop :=
  (∀ s : State,
    (∀ row ∈ [(0x00, 0), (0x01, (if s.err = 0 then 0 else 1) + 2 * s.tvalid.toNat),
        (0x02, s.err.toNat), (0x03, s.errInfo.toNat),
        (0x04, s.arg0.toNat), (0x05, s.arg1.toNat), (0x06, s.arg2.toNat), (0x08, s.acc.toNat),
        (0x10, s.outWin.base.toNat), (0x11, s.outWin.pos.toNat), (0x12, s.outWin.lim.toNat),
        (0x14, s.inWin.base.toNat), (0x15, s.inWin.pos.toNat), (0x16, s.inWin.lim.toNat),
        (0x20, s.pfx.size.toNat), (0x21, s.pfx.tcnt.toNat), (0x22, s.pfx.ver.toNat),
        (0x30, s.tgt.alt.toNat), (0x31, s.tgt.named.toNat), (0x32, s.tgt.size.toNat),
        (0x33, s.tgt.nelem.toNat), (0x40, s.el.addr.toNat), (0x41, s.el.size.toNat),
        (0x50, s.sfx.dev.toNat), (0x51, s.sfx.prod.toNat), (0x52, s.sfx.vend.toNat),
        (0x53, s.sfx.dfu.toNat), (0x54, s.sfx.len.toNat), (0x55, s.sfx.crc.toNat)],
      (s.readNumber (BitVec.ofNat 12 row.1)).toNat = row.2)
    ∧ (∀ i : Fin 5, (s.readNumber (BitVec.ofNat 12 (0x28 + i))).toNat = s.pfx.sig[i].toNat)
    ∧ (∀ i : Fin 6, (s.readNumber (BitVec.ofNat 12 (0x38 + i))).toNat = s.tgt.sig[i].toNat)
    ∧ (∀ i : Fin 3, (s.readNumber (BitVec.ofNat 12 (0x58 + i))).toNat = s.sfx.sig[i].toNat)
    ∧ (∀ i : Fin 255, (s.readNumber (BitVec.ofNat 12 (0x100 + i))).toNat = s.tgt.name[i].toNat))
  ∧ ∀ (s : State) (n : RegNum) (d : Word) (rest : List HostAction),
    (s.script = .rd n :: rest →
      step s = .next { s with script := rest, reply := .word (s.readNumber n) })
    ∧ ∀ r, regAt n = some r →
      s.readNumber n = s.readReg r
      ∧ (s.readReg r).toNat < 2 ^ regWidth r
      ∧ (regAccess r = .readWrite → s.script = .wr n d :: rest →
          ∃ t, step s = .next t ∧ (t.readNumber n).toNat = d.toNat % 2 ^ regWidth r)
      ∧ (regAccess r = .readOnly → s.script = .wr n d :: rest →
          step s = .next { s with script := rest, reply := .nothing })

/-- R35: two numbers name two registers; a plain write to one register leaves the read value of every
other register, and with it ERR, TBL, TVALID and every byte of MEM. -/
def Obligations.NoTwoRegistersAlias : Prop :=
  (∀ (m n : RegNum) (r : Reg), regAt m = some r → regAt n = some r → m = n)
  ∧ ∀ (s t : State) (n : RegNum) (r r' : Reg) (d : Word) (rest : List HostAction),
      regAt n = some r → r ≠ .cmd → r' ≠ r → s.script = .wr n d :: rest → step s = .next t →
      t.readReg r' = s.readReg r' ∧ t.tbl = s.tbl ∧ t.tvalid = s.tvalid
        ∧ ∀ a, t.readByte a = s.readByte a

/-- R18: STATUS is a view: bit 0 is 1 exactly when ERR is not 0, bit 1 is TVALID, bits 31:2 are 0; a
write to it is ignored; after reset it reads 0. -/
def Obligations.StatusIsAView : Prop :=
  (∀ s : State,
    ((s.readNumber 0x01).getLsbD 0 = true ↔ s.err ≠ 0)
    ∧ (s.readNumber 0x01).getLsbD 1 = s.tvalid
    ∧ (∀ i, 2 ≤ i → (s.readNumber 0x01).getLsbD i = false)
    ∧ ∀ d, s.writeNumber 0x01 d = s)
  ∧ State.reset.readNumber 0x01 = 0x00000000

/-- R41, R53, R145: a host MEM write inside MEM stores the bytes and leaves every other byte and all other
state; a host MEM read inside MEM returns the bytes and changes nothing; both whatever ERR holds. -/
def Obligations.HostMemoryAccess : Prop :=
  ∀ (s : State) (a : Word) (rest : List HostAction),
    (∀ bs, s.script = .memWr a bs :: rest → a.toNat + bs.length ≤ s.memBytes →
      ∃ t, step s = .next t
        ∧ t = { s with script := rest, reply := .nothing, mem := t.mem }
        ∧ t.readBytes a.toNat bs.length = bs ∧ SameOutside s t a.toNat bs.length)
    ∧ (∀ n, s.script = .memRd a n :: rest → a.toNat + n ≤ s.memBytes →
      ∃ bs, step s = .next { s with script := rest, reply := .bytes bs } ∧ bs.length = n
        ∧ ∀ i (h : i < bs.length), bs[i] = s.readByte (a.toNat + i))

/-! ### Reset -/

/-- R38: the reset state, the reset input and SYS.RESET leave the values of the table; hard reset clears
TVALID, SYS.RESET keeps TBL, TVALID and MEM. What MEM and TBL hold after hard reset is not said. -/
def Obligations.ResetValues : Prop :=
  (State.reset.registersReset ∧ State.reset.tvalid = false ∧ State.reset.readNumber 0x01 = 0)
  ∧ (∀ (s : State) (rest : List HostAction), s.script = .hardReset :: rest →
      ∃ t, step s = .next t ∧ t.registersReset ∧ t.tvalid = false ∧ t.readNumber 0x01 = 0)
  ∧ ∀ s : State, ∃ t, exec .sysReset s = .next t ∧ t.registersReset
      ∧ t.tvalid = s.tvalid ∧ t.tbl = s.tbl ∧ (t.readNumber 0x01).getLsbD 0 = false
      ∧ (t.readNumber 0x01).getLsbD 1 = s.tvalid
      ∧ (∀ a, t.readByte a = s.readByte a) ∧ t.memBytes = s.memBytes

/-- R133: SYS.RESET runs whether or not a fault is latched and leaves the values of its pseudocode; TBL,
TVALID and MEM are not changed; its word is exactly `0x00000001`, and `0x00000101` raises IllegalCmd or,
while a fault is latched, is ignored. -/
def Obligations.SoftResetEffect : Prop :=
  decode 0x00000001 = .ok .sysReset
  ∧ (∀ (s : State) (rest : List HostAction), s.script = .wr 0x00 0x00000001 :: rest →
      ∃ t, step s = .next t ∧ t.registersReset
        ∧ t = { t with tbl := s.tbl, tvalid := s.tvalid, mem := s.mem, memBytes := s.memBytes,
                       memEpoch := s.memEpoch, script := rest, reply := .nothing })
  ∧ (∀ (s : State) (rest : List HostAction), s.script = .wr 0x00 0x00000101 :: rest →
      (s.err = 0 →
        step s = .next { s with script := rest, reply := .nothing, err := 9, errInfo := 0x00000101 })
      ∧ (s.err ≠ 0 → step s = .next { s with script := rest, reply := .nothing }))

/-! ### Invariants -/

/-- R19, R20, R23, R38, R141: the invariant holds right after reset. That the reset state has a legal
MEM_BYTES is the model's choice (log entry 1), and so is the canonical form of its empty MEM (log entry 2). -/
def Obligations.ResetSatisfiesInvariant : Prop := State.reset.Inv

/-- R7, R19, R20, R23, R37, R42, R46, R141: every step keeps the invariant: MEM_BYTES legal and MEM inside
it in canonical form, a valid table holding the constants, ERR a live code, ERRINFO 0 while ERR is 0. The
canonical form is the model's own (log entry 2). -/
def Obligations.StepKeepsInvariant : Prop :=
  ∀ s t : State, s.Inv → step s = .next t → t.Inv

/-- R48, R49: a window whose base, position and limit are in order inside MEM stays so under every
command. -/
def Obligations.CommandsKeepWindowsOrdered : Prop :=
  ∀ (i : Instr) (s t : State), exec i s = .next t →
    (s.outWin.ordered s.memBytes → t.outWin.ordered t.memBytes)
    ∧ (s.inWin.ordered s.memBytes → t.inWin.ordered t.memBytes)

/-- R21 to R26, R30, R31, R37, R45, R106, R120: what each command leaves alone. No command but SYS.RESET
writes an ARG register, a window's base or limit; each other piece of state is written by the commands
the rules name; no command at all changes MEM_BYTES or the host's script and reply. -/
def Obligations.CommandsWriteOnlyTheirState : Prop :=
  ∀ (i : Instr) (s t : State), exec i s = .next t →
    (t.memBytes = s.memBytes ∧ t.memEpoch = s.memEpoch ∧ t.script = s.script ∧ t.reply = s.reply)
    ∧ (i ≠ .crcTinit → t.tbl = s.tbl ∧ t.tvalid = s.tvalid)
    ∧ (writesMem i = false → t.mem = s.mem ∧ ∀ a, t.readByte a = s.readByte a)
    ∧ (i ≠ .sysReset →
        (t.arg0 = s.arg0 ∧ t.arg1 = s.arg1 ∧ t.arg2 = s.arg2)
        ∧ (t.outWin.base = s.outWin.base ∧ t.outWin.lim = s.outWin.lim)
        ∧ (t.inWin.base = s.inWin.base ∧ t.inWin.lim = s.inWin.lim)
        ∧ (movesOut i = false → t.outWin.pos = s.outWin.pos)
        ∧ (movesIn i = false → t.inWin.pos = s.inWin.pos)
        ∧ (writesAcc i = false → t.acc = s.acc)
        ∧ (writesPfx i = false → t.pfx = s.pfx)
        ∧ (writesTgt i = false → t.tgt = s.tgt)
        ∧ (writesEl i = false → t.el = s.el)
        ∧ (writesSfx i = false → t.sfx = s.sfx))

/-! ### Faults -/

/-- R142, R146: with no fault latched a command takes the first fault of its list of checks, with its
ERRINFO value, or, when no check holds, completes with no fault; a word that decodes to nothing raises
IllegalCmd with the word, before any of them. -/
def Obligations.FaultOrderAndContext : Prop :=
  (∀ (i : Instr) (s : State), s.err = 0 →
    (∀ e, firstFault i s = some e → exec i s = .next (s.latched e))
    ∧ (firstFault i s = none → ∃ t, exec i s = .next t ∧ t.err = 0))
  ∧ ∀ (s : State) (w : Word) (rest : List HostAction) (r : Reject),
      s.script = .wr 0x00 w :: rest → s.err = 0 → decode w = .error r →
      step s = .next { s.latched ⟨.illegalCmd, w⟩ with script := rest, reply := .nothing }

/-- R143: faults are precise: a command that ends with a fault latched has written ERR and ERRINFO, and
every other register, TBL, TVALID and every byte of MEM are as before it. -/
def Obligations.FaultsArePrecise : Prop :=
  ∀ (i : Instr) (s t : State), s.err = 0 → exec i s = .next t → t.err ≠ 0 →
    t = { s with err := t.err, errInfo := t.errInfo } ∧ ∀ a, t.readByte a = s.readByte a

/-- R141: the codes, which command raises which kind, and that no step ever leaves a code outside the live
ones in ERR. -/
def Obligations.FaultCodesAndRaisers : Prop :=
  (faultCode .sourceUnreadable = 1 ∧ faultCode .hexSyntaxError = 2 ∧ faultCode .hexChecksumError = 3
    ∧ faultCode .hexTruncated = 4 ∧ faultCode .nameTooLong = 5 ∧ faultCode .allocationLimit = 6
    ∧ faultCode .ioWriteShort = 7 ∧ faultCode .ioReadShort = 8 ∧ faultCode .illegalCmd = 9
    ∧ faultCode .bufRange = 10 ∧ faultCode .fieldOverflow = 11 ∧ faultCode .tableNotReady = 12
    ∧ faultCode .noTarget = 13)
  ∧ (∀ (i : Instr) (s t : State), s.err = 0 → exec i s = .next t → t.err ≠ 0 →
      ∃ k ∈ raisedBy i, t.err = faultCode k)
  ∧ ∀ s t : State, s.err ∈ liveCodes → step s = .next t → t.err ∈ liveCodes

/-- R147: the only ways out of the faulted state are SYS.RESET and hard reset, and both clear ERR and
ERRINFO and put the registers back to their reset values. -/
def Obligations.OnlyResetLeavesTheFaultedState : Prop :=
  (∀ s t : State, s.err ≠ 0 → step s = .next t → t.err ≠ s.err ∨ t.errInfo ≠ s.errInfo →
    ∃ rest, s.script = .wr 0x00 0x00000001 :: rest ∨ s.script = .hardReset :: rest)
  ∧ ∀ (s t : State) (rest : List HostAction),
      s.script = .wr 0x00 0x00000001 :: rest ∨ s.script = .hardReset :: rest → step s = .next t →
      t.err = 0 ∧ t.errInfo = 0 ∧ t.registersReset

/-! ### System and CRC commands -/

/-- R132: NOP changes no register and no byte of MEM, in any state. -/
def Obligations.NopChangesNothing : Prop :=
  decode 0x00000000 = .ok .nop ∧ ∀ s : State, exec .nop s = .next s

/-- R11: the little-endian primitives are the bytes of the number, least significant first, and mutual
inverses. -/
def Obligations.LittleEndianInverses : Prop :=
  (∀ v : Half, (le16 v).map BitVec.toNat = [v.toNat % 256, v.toNat / 256])
  ∧ (∀ v : Word, (le32 v).map BitVec.toNat
      = [v.toNat % 256, v.toNat / 256 % 256, v.toNat / 65536 % 256, v.toNat / 16777216])
  ∧ (∀ b0 b1 : Byte, (unLe16 [b0, b1]).toNat = b0.toNat + 256 * b1.toNat)
  ∧ (∀ b0 b1 b2 b3 : Byte, (unLe32 [b0, b1, b2, b3]).toNat
      = b0.toNat + 256 * b1.toNat + 65536 * b2.toNat + 16777216 * b3.toNat)
  ∧ (∀ v : Half, unLe16 (le16 v) = v) ∧ (∀ v : Word, unLe32 (le32 v) = v)
  ∧ (∀ s : List Byte, s.length = 2 → le16 (unLe16 s) = s)
  ∧ ∀ s : List Byte, s.length = 4 → le32 (unLe32 s) = s

/-- R86: with TBL[i] = T(i) for all i, the table-driven step is the bit-serial step. -/
def Obligations.TableStepIsBitSerialStep : Prop :=
  ∀ (tbl : Vector Word 256) (a : Word) (b : Byte),
    (∀ i : Fin 256, tbl[i] = crcStep 0 (BitVec.ofNat 8 i)) → crcStepTbl tbl a b = crcStep a b

/-- The chaining law of R88, which the spec marks as its own inference ("derived: from rule R87 by induction
on s"). -/
def Obligations.CrcChaining : Prop :=
  ∀ (a : Word) (s t : List Byte), crcUpdate a (s ++ t) = crcUpdate (crcUpdate a s) t

/-- R89: changing any single byte of the covered range changes the CRC. -/
def Obligations.SingleByteChangeChangesCrc : Prop :=
  ∀ (a : Word) (before after : List Byte) (b c : Byte), b ≠ c →
    crcUpdate a (before ++ [b] ++ after) ≠ crcUpdate a (before ++ [c] ++ after)

/-- R128, item c: feeding the little-endian CRC to the accumulator that equals it gives zero, so the CRC
of a byte sequence followed by its own CRC field is zero, from any initial accumulator. -/
def Obligations.ZeroResidue : Prop :=
  ∀ (a : Word) (s : List Byte), crcUpdate a (s ++ le32 (crcUpdate a s)) = 0x00000000

/-- R91: CRC.TINIT writes T(i) = crc_step(0, i) into every entry and sets TVALID, changes nothing else, and
a second one changes nothing; while a fault is latched it does not run. -/
def Obligations.CrcTinitBuildsTheTable : Prop :=
  decode 0x00000010 = .ok .crcTinit
  ∧ (∀ s : State, s.err = 0 →
      ∃ t, exec .crcTinit s = .next t
        ∧ t = { s with tbl := t.tbl, tvalid := t.tvalid }
        ∧ (∀ i : Fin 256, t.tbl[i] = crcStep 0 (BitVec.ofNat 8 i))
        ∧ t.tvalid = true ∧ (t.readNumber 0x01).getLsbD 1 = true
        ∧ exec .crcTinit t = .next t)
  ∧ ∀ s : State, s.err ≠ 0 → exec .crcTinit s = .next s

/-- R92: CRC.SEED loads `0xFFFFFFFF` into ACC, with or without a table, and nothing else: the same as the
host's `WR ACC, 0xFFFFFFFF`. -/
def Obligations.CrcSeedLoadsTheSeed : Prop :=
  decode 0x00000011 = .ok .crcSeed
  ∧ ∀ s : State, s.err = 0 →
      exec .crcSeed s = .next { s with acc := 0xFFFFFFFF }
      ∧ exec .crcSeed s = .next (s.writeNumber 0x08 0xFFFFFFFF)

/-- R93: CRC.BYTE updates ACC with the immediate by the bit-serial step of R84 and changes nothing else;
with TVALID = 0 it takes TableNotReady with ERRINFO 0. -/
def Obligations.CrcByteUpdatesAcc : Prop :=
  ∀ (imm8 : Byte),
    decode (BitVec.ofNat 32 (0x12 + 256 * imm8.toNat)) = .ok (.crcByte imm8)
    ∧ (∀ s : State, s.err = 0 → s.tableBuilt →
        exec (.crcByte imm8) s = .next { s with acc := crcStep s.acc imm8 })
    ∧ ∀ s : State, s.err = 0 → s.tvalid = false →
        exec (.crcByte imm8) s = .next (s.latched ⟨.tableNotReady, 0⟩)

/-- R94: CRC.BLOCK updates ACC with the bytes MEM[a..a+n) in increasing address order and changes nothing
else; TableNotReady comes first, then BufRange(a) when the range, computed without wrap, leaves MEM; an
empty range raises nothing whatever a is. -/
def Obligations.CrcBlockUpdatesAcc : Prop :=
  decode 0x00000013 = .ok .crcBlock
  ∧ ∀ s : State, s.err = 0 →
    let a := s.arg0.toNat
    let n := s.arg1.toNat
    (s.tableBuilt → n = 0 ∨ a + n ≤ s.memBytes →
      exec .crcBlock s = .next { s with acc := crcUpdate s.acc (s.readBytes a n) })
    ∧ (s.tvalid = false → exec .crcBlock s = .next (s.latched ⟨.tableNotReady, 0⟩))
    ∧ (s.tvalid = true → 0 < n → s.memBytes < a + n →
        exec .crcBlock s = .next (s.latched ⟨.bufRange, s.arg0⟩))

/-- R46, R50, R51, R94, R113, R125: a byte count of 0 touches no byte, checks no address and changes
nothing, wherever the operands and the windows point. -/
def Obligations.ZeroLengthTouchesNothing : Prop :=
  ∀ s : State, s.err = 0 → s.arg1 = 0 →
    (s.tvalid = true → exec .crcBlock s = .next s)
    ∧ exec .pkData s = .next s ∧ exec .upData s = .next s

/-! ### Document-model commands -/

/-- R98: DM.INIT writes the fixed fields, the identifiers and zeros of its pseudocode and nothing else; an
identifier above `0xFFFF` faults with the number of its register, checked in the order device, vendor,
product. -/
def Obligations.DmInitStartsAnEmptyDocument : Prop :=
  decode 0x00000020 = .ok .dmInit
  ∧ ∀ s : State, s.err = 0 →
    (s.arg0.toNat ≤ 0xFFFF → s.arg1.toNat ≤ 0xFFFF → s.arg2.toNat ≤ 0xFFFF →
      ∃ t, exec .dmInit s = .next t
        ∧ t = { s with pfx := t.pfx, tgt := t.tgt, el := t.el, sfx := t.sfx }
        ∧ (t.pfx.sig.toList = [0x44, 0x66, 0x75, 0x53, 0x65] ∧ t.pfx.ver = 1 ∧ t.pfx.size = 11
            ∧ t.pfx.tcnt = 0)
        ∧ (t.sfx.dev.toNat = s.arg0.toNat ∧ t.sfx.prod.toNat = s.arg2.toNat
            ∧ t.sfx.vend.toNat = s.arg1.toNat)
        ∧ (t.sfx.dfu = 0x011A ∧ t.sfx.sig.toList = [0x55, 0x46, 0x44] ∧ t.sfx.len = 16
            ∧ t.sfx.crc = 0)
        ∧ ((∀ i : Fin 6, t.tgt.sig[i] = 0) ∧ t.tgt.alt = 0 ∧ t.tgt.named = 0
            ∧ (∀ i : Fin 255, t.tgt.name[i] = 0) ∧ t.tgt.size = 0 ∧ t.tgt.nelem = 0)
        ∧ (t.el.addr = 0 ∧ t.el.size = 0))
    ∧ (0xFFFF < s.arg0.toNat → exec .dmInit s = .next (s.latched ⟨.fieldOverflow, 0x04⟩))
    ∧ (s.arg0.toNat ≤ 0xFFFF → 0xFFFF < s.arg1.toNat →
        exec .dmInit s = .next (s.latched ⟨.fieldOverflow, 0x05⟩))
    ∧ (s.arg0.toNat ≤ 0xFFFF → s.arg1.toNat ≤ 0xFFFF → 0xFFFF < s.arg2.toNat →
        exec .dmInit s = .next (s.latched ⟨.fieldOverflow, 0x06⟩))

/-- R99: DM.ADDIMG makes a new current target with the name read from MEM and null-padded, counts it, and
adds 271 to the image size, and changes nothing else; its four faults in their order, each without
effect. -/
def Obligations.DmAddimgStartsATarget : Prop :=
  ∀ (alt : Byte),
    decode (BitVec.ofNat 32 (0x21 + 256 * alt.toNat)) = .ok (.dmAddimg alt)
    ∧ ∀ s : State, s.err = 0 →
      let a := s.arg0.toNat
      let n := s.arg1.toNat
      (n ≤ 255 → s.pfx.tcnt ≠ 255 → s.pfx.size.toNat + 271 ≤ 0xFFFFFFFF →
        n = 0 ∨ a + n ≤ s.memBytes →
        ∃ t, exec (.dmAddimg alt) s = .next t
          ∧ t = { s with pfx := t.pfx, tgt := t.tgt }
          ∧ t.tgt.sig.toList = [0x54, 0x61, 0x72, 0x67, 0x65, 0x74]
          ∧ t.tgt.alt = alt ∧ t.tgt.named = (if 1 ≤ n then 1 else 0)
          ∧ (∀ i : Fin 255, t.tgt.name[i] = if i < n then s.readByte (a + i) else 0)
          ∧ t.tgt.size = 0 ∧ t.tgt.nelem = 0
          ∧ t.pfx = { s.pfx with tcnt := t.pfx.tcnt, size := t.pfx.size }
          ∧ t.pfx.tcnt.toNat = s.pfx.tcnt.toNat + 1
          ∧ t.pfx.size.toNat = s.pfx.size.toNat + 271)
      ∧ (255 < n → exec (.dmAddimg alt) s = .next (s.latched ⟨.nameTooLong, s.arg1⟩))
      ∧ (n ≤ 255 → s.pfx.tcnt = 255 →
          exec (.dmAddimg alt) s = .next (s.latched ⟨.fieldOverflow, 0x21⟩))
      ∧ (n ≤ 255 → s.pfx.tcnt ≠ 255 → 0xFFFFFFFF < s.pfx.size.toNat + 271 →
          exec (.dmAddimg alt) s = .next (s.latched ⟨.fieldOverflow, 0x20⟩))
      ∧ (n ≤ 255 → s.pfx.tcnt ≠ 255 → s.pfx.size.toNat + 271 ≤ 0xFFFFFFFF →
          0 < n → s.memBytes < a + n →
          exec (.dmAddimg alt) s = .next (s.latched ⟨.bufRange, s.arg0⟩))

/-- R100: DM.ADDEL sets the element header, counts the element and adds size + 8 to the target's and the
image's size, and changes nothing else; its four faults in their order, each without effect. -/
def Obligations.DmAddelAddsAnElement : Prop :=
  decode 0x00000022 = .ok .dmAddel
  ∧ ∀ s : State, s.err = 0 →
    let size := s.arg1.toNat
    (s.pfx.tcnt ≠ 0 → s.tgt.size.toNat + size + 8 ≤ 0xFFFFFFFF →
      s.pfx.size.toNat + size + 8 ≤ 0xFFFFFFFF → s.tgt.nelem ≠ 0xFFFFFFFF →
      ∃ t, exec .dmAddel s = .next t
        ∧ t = { s with
                el := { addr := s.arg0, size := s.arg1 },
                tgt := { s.tgt with size := t.tgt.size, nelem := t.tgt.nelem },
                pfx := { s.pfx with size := t.pfx.size } }
        ∧ t.tgt.size.toNat = s.tgt.size.toNat + size + 8
        ∧ t.tgt.nelem.toNat = s.tgt.nelem.toNat + 1
        ∧ t.pfx.size.toNat = s.pfx.size.toNat + size + 8)
    ∧ (s.pfx.tcnt = 0 → exec .dmAddel s = .next (s.latched ⟨.noTarget, 0⟩))
    ∧ (s.pfx.tcnt ≠ 0 → 0xFFFFFFFF < s.tgt.size.toNat + size + 8 →
        exec .dmAddel s = .next (s.latched ⟨.fieldOverflow, 0x32⟩))
    ∧ (s.pfx.tcnt ≠ 0 → s.tgt.size.toNat + size + 8 ≤ 0xFFFFFFFF →
        0xFFFFFFFF < s.pfx.size.toNat + size + 8 →
        exec .dmAddel s = .next (s.latched ⟨.fieldOverflow, 0x20⟩))
    ∧ (s.pfx.tcnt ≠ 0 → s.tgt.size.toNat + size + 8 ≤ 0xFFFFFFFF →
        s.pfx.size.toNat + size + 8 ≤ 0xFFFFFFFF → s.tgt.nelem = 0xFFFFFFFF →
        exec .dmAddel s = .next (s.latched ⟨.fieldOverflow, 0x33⟩))

/-- R101, which the spec marks as its own inference ("derived: from rule R98, rule R99 and rule R100"):
after any sequence that starts with a successful DM.INIT and continues with successful
DM.ADDIMG and DM.ADDEL commands, mixed with anything that writes no PFX, TGT or EL register, the counts
and sizes equal the closed form, and no value has wrapped. -/
def Obligations.SizesFollowTheClosedForm : Prop :=
  ∀ (log : List DocEvent) (s : State), DocRun log s →
    s.pfx.tcnt.toNat = imageCount log
    ∧ s.pfx.size.toNat = 11 + 271 * imageCount log + elementBytes log
    ∧ (0 < imageCount log →
        s.tgt.nelem.toNat = (lastImage log).length
        ∧ s.tgt.size.toNat = elementBytes (lastImage log))

/-! ### Pack commands -/

/-- R75, R106, R109: PK.PREFIX appends the 11-byte prefix. -/
def Obligations.PkPrefixAppends : Prop :=
  decode 0x00000030 = .ok .pkPrefix
  ∧ (∀ s : State, (s.pfx.sig.toList ++ [s.pfx.ver] ++ le32 s.pfx.size ++ [s.pfx.tcnt]).length = 11)
  ∧ Appends .pkPrefix fun s =>
      s.pfx.sig.toList ++ [s.pfx.ver] ++ le32 s.pfx.size ++ [s.pfx.tcnt]

/-- R76, R106, R110: PK.TPREFIX appends the 271-byte target prefix. -/
def Obligations.PkTprefixAppends : Prop :=
  decode 0x00000031 = .ok .pkTprefix
  ∧ (∀ s : State, (s.tgt.sig.toList ++ [s.tgt.alt] ++ [s.tgt.named] ++ s.tgt.name.toList
      ++ le32 s.tgt.size ++ le32 s.tgt.nelem).length = 271)
  ∧ Appends .pkTprefix fun s =>
      s.tgt.sig.toList ++ [s.tgt.alt] ++ [s.tgt.named] ++ s.tgt.name.toList
        ++ le32 s.tgt.size ++ le32 s.tgt.nelem

/-- R77, R106, R111: PK.ELHDR appends the 8-byte element header. -/
def Obligations.PkElhdrAppends : Prop :=
  decode 0x00000032 = .ok .pkElhdr
  ∧ (∀ s : State, (le32 s.el.addr ++ le32 s.el.size).length = 8)
  ∧ Appends .pkElhdr fun s => le32 s.el.addr ++ le32 s.el.size

/-- R52, R113: PK.DATA appends the n source bytes as they were before the command, also when source and
destination overlap; BufRange(src) comes before the faults of the output window. -/
def Obligations.PkDataAppendsACopy : Prop :=
  decode 0x00000033 = .ok .pkData
  ∧ ∀ s : State, s.err = 0 →
    let src := s.arg0.toNat
    let n := s.arg1.toNat
    let p := s.outWin.pos
    (n = 0 → exec .pkData s = .next s)
    ∧ (src + n ≤ s.memBytes → p.toNat + n ≤ s.outWin.lim.toNat → p.toNat + n ≤ s.memBytes →
        ∃ t, exec .pkData s = .next t
          ∧ t = { s with mem := t.mem, outWin := { s.outWin with pos := t.outWin.pos } }
          ∧ (∀ i, i < n → t.readByte (p.toNat + i) = s.readByte (src + i))
          ∧ SameOutside s t p.toNat n
          ∧ t.outWin.pos.toNat = p.toNat + n)
    ∧ (0 < n → s.memBytes < src + n → exec .pkData s = .next (s.latched ⟨.bufRange, s.arg0⟩))
    ∧ (0 < n → src + n ≤ s.memBytes → s.outWin.lim.toNat < p.toNat + n →
        exec .pkData s = .next (s.latched ⟨.ioWriteShort, p⟩))
    ∧ (0 < n → src + n ≤ s.memBytes → p.toNat + n ≤ s.outWin.lim.toNat →
        s.memBytes < p.toNat + n → exec .pkData s = .next (s.latched ⟨.bufRange, p⟩))

/-- R78, R81, R114, R115: PK.SUFFIX appends the twelve suffix bytes and, little-endian, the CRC from the
seed of the stream MEM[WBASE..WPOS) and those twelve bytes; SFX_CRC and ACC are that CRC; nothing else
changes; its four faults in their order, each without effect. -/
def Obligations.PkSuffixAppendsTheCrc : Prop :=
  decode 0x00000034 = .ok .pkSuffix
  ∧ ∀ s : State, s.err = 0 →
    let base := s.outWin.base
    let p := s.outWin.pos
    let s12 := le16 s.sfx.dev ++ le16 s.sfx.prod ++ le16 s.sfx.vend ++ le16 s.sfx.dfu
      ++ s.sfx.sig.toList ++ [s.sfx.len]
    let c := crcUpdate 0xFFFFFFFF (s.readBytes base.toNat (p.toNat - base.toNat) ++ s12)
    (s.tableBuilt → base.toNat ≤ p.toNat → p.toNat + 16 ≤ s.outWin.lim.toNat →
      p.toNat + 16 ≤ s.memBytes →
      ∃ t, exec .pkSuffix s = .next t
        ∧ t = { s with mem := t.mem, outWin := { s.outWin with pos := t.outWin.pos },
                       sfx := { s.sfx with crc := c }, acc := c }
        ∧ t.readBytes p.toNat 16 = s12 ++ le32 c
        ∧ SameOutside s t p.toNat 16
        ∧ t.outWin.pos.toNat = p.toNat + 16)
    ∧ (s.tvalid = false → exec .pkSuffix s = .next (s.latched ⟨.tableNotReady, 0⟩))
    ∧ (s.tvalid = true → p.toNat < base.toNat →
        exec .pkSuffix s = .next (s.latched ⟨.bufRange, base⟩))
    ∧ (s.tvalid = true → base.toNat ≤ p.toNat → s.outWin.lim.toNat < p.toNat + 16 →
        exec .pkSuffix s = .next (s.latched ⟨.ioWriteShort, p⟩))
    ∧ (s.tvalid = true → base.toNat ≤ p.toNat → p.toNat + 16 ≤ s.outWin.lim.toNat →
        s.memBytes < p.toNat + 16 → exec .pkSuffix s = .next (s.latched ⟨.bufRange, p⟩))

/-! ### Unpack commands -/

/-- R75, R120, R121: UP.PREFIX loads the prefix registers from the 11 bytes at RPOS, whatever they are, and
changes nothing else but RPOS. -/
def Obligations.UpPrefixLoads : Prop :=
  decode 0x00000040 = .ok .upPrefix
  ∧ Consumes .upPrefix 11
      (fun s t =>
        let p := s.inWin.pos.toNat
        (∀ i : Fin 5, t.pfx.sig[i] = s.readByte (p + i)) ∧ t.pfx.ver = s.readByte (p + 5)
        ∧ t.pfx.size.toNat = s.le32At (p + 6) ∧ t.pfx.tcnt = s.readByte (p + 10))
      (fun s t =>
        t = { s with inWin := { s.inWin with pos := t.inWin.pos }, pfx := t.pfx })

/-- R76, R120, R122: UP.TPREFIX loads the target registers from the 271 bytes at RPOS, whatever they are,
and changes nothing else but RPOS. -/
def Obligations.UpTprefixLoads : Prop :=
  decode 0x00000041 = .ok .upTprefix
  ∧ Consumes .upTprefix 271
      (fun s t =>
        let p := s.inWin.pos.toNat
        (∀ i : Fin 6, t.tgt.sig[i] = s.readByte (p + i)) ∧ t.tgt.alt = s.readByte (p + 6)
        ∧ t.tgt.named = s.readByte (p + 7)
        ∧ (∀ i : Fin 255, t.tgt.name[i] = s.readByte (p + 8 + i))
        ∧ t.tgt.size.toNat = s.le32At (p + 263) ∧ t.tgt.nelem.toNat = s.le32At (p + 267))
      (fun s t =>
        t = { s with inWin := { s.inWin with pos := t.inWin.pos }, tgt := t.tgt })

/-- R77, R120, R123: UP.ELHDR loads the element registers from the 8 bytes at RPOS and changes nothing else
but RPOS. -/
def Obligations.UpElhdrLoads : Prop :=
  decode 0x00000042 = .ok .upElhdr
  ∧ Consumes .upElhdr 8
      (fun s t =>
        let p := s.inWin.pos.toNat
        t.el.addr.toNat = s.le32At p ∧ t.el.size.toNat = s.le32At (p + 4))
      (fun s t =>
        t = { s with inWin := { s.inWin with pos := t.inWin.pos }, el := t.el })

/-- R52, R125: UP.DATA copies the n stream bytes as they were before the command to the destination, also
when the two overlap, and changes nothing else but RPOS; BufRange(dst) comes before the faults of the
input window. -/
def Obligations.UpDataCopiesThePayload : Prop :=
  decode 0x00000043 = .ok .upData
  ∧ ∀ s : State, s.err = 0 →
    let dst := s.arg0.toNat
    let n := s.arg1.toNat
    let p := s.inWin.pos
    (n = 0 → exec .upData s = .next s)
    ∧ (dst + n ≤ s.memBytes → p.toNat + n ≤ s.inWin.lim.toNat → p.toNat + n ≤ s.memBytes →
        ∃ t, exec .upData s = .next t
          ∧ t = { s with mem := t.mem, inWin := { s.inWin with pos := t.inWin.pos } }
          ∧ (∀ i, i < n → t.readByte (dst + i) = s.readByte (p.toNat + i))
          ∧ SameOutside s t dst n
          ∧ t.inWin.pos.toNat = p.toNat + n)
    ∧ (0 < n → s.memBytes < dst + n → exec .upData s = .next (s.latched ⟨.bufRange, s.arg0⟩))
    ∧ (0 < n → dst + n ≤ s.memBytes → s.inWin.lim.toNat < p.toNat + n →
        exec .upData s = .next (s.latched ⟨.ioReadShort, p⟩))
    ∧ (0 < n → dst + n ≤ s.memBytes → p.toNat + n ≤ s.inWin.lim.toNat →
        s.memBytes < p.toNat + n → exec .upData s = .next (s.latched ⟨.bufRange, p⟩))

/-- R78, R81, R126: UP.SUFFIX loads the suffix registers from the 16 bytes at RPOS, the stored CRC into
SFX_CRC, and the CRC from the seed of MEM[RBASE..RPOS+12) into ACC, without comparing the two; nothing
else changes but RPOS; its four faults in their order, each without effect. -/
def Obligations.UpSuffixLoadsAndRecomputes : Prop :=
  decode 0x00000044 = .ok .upSuffix
  ∧ ∀ s : State, s.err = 0 →
    let base := s.inWin.base
    let p := s.inWin.pos
    (s.tableBuilt → base.toNat ≤ p.toNat → p.toNat + 16 ≤ s.inWin.lim.toNat →
      p.toNat + 16 ≤ s.memBytes →
      ∃ t, exec .upSuffix s = .next t
        ∧ t = { s with inWin := { s.inWin with pos := t.inWin.pos }, sfx := t.sfx, acc := t.acc }
        ∧ (t.sfx.dev.toNat = s.le16At p.toNat ∧ t.sfx.prod.toNat = s.le16At (p.toNat + 2)
            ∧ t.sfx.vend.toNat = s.le16At (p.toNat + 4) ∧ t.sfx.dfu.toNat = s.le16At (p.toNat + 6)
            ∧ (∀ i : Fin 3, t.sfx.sig[i] = s.readByte (p.toNat + 8 + i))
            ∧ t.sfx.len = s.readByte (p.toNat + 11)
            ∧ t.sfx.crc.toNat = s.le32At (p.toNat + 12))
        ∧ t.acc = crcUpdate 0xFFFFFFFF (s.readBytes base.toNat (p.toNat - base.toNat + 12))
        ∧ t.inWin.pos.toNat = p.toNat + 16)
    ∧ (s.tvalid = false → exec .upSuffix s = .next (s.latched ⟨.tableNotReady, 0⟩))
    ∧ (s.tvalid = true → p.toNat < base.toNat →
        exec .upSuffix s = .next (s.latched ⟨.bufRange, base⟩))
    ∧ (s.tvalid = true → base.toNat ≤ p.toNat → s.inWin.lim.toNat < p.toNat + 16 →
        exec .upSuffix s = .next (s.latched ⟨.ioReadShort, p⟩))
    ∧ (s.tvalid = true → base.toNat ≤ p.toNat → p.toNat + 16 ≤ s.inWin.lim.toNat →
        s.memBytes < p.toNat + 16 → exec .upSuffix s = .next (s.latched ⟨.bufRange, p⟩))

/-! ### Whole structures and files -/

/-- R82: each pack and unpack pair is a bijection between register contents and byte sequences of the
structure's length. -/
def Obligations.PackAndUnpackAreInverse : Prop :=
  (∀ r, unpackPrefix (packPrefix r) = r)
  ∧ (∀ r, unpackTprefix (packTprefix r) = r)
  ∧ (∀ r, unpackElhdr (packElhdr r) = r)
  ∧ (∀ r, unpackSuffix (packSuffix r) = r)
  ∧ (∀ s : List Byte, s.length = 11 → packPrefix (unpackPrefix s) = s)
  ∧ (∀ s : List Byte, s.length = 271 → packTprefix (unpackTprefix s) = s)
  ∧ (∀ s : List Byte, s.length = 8 → packElhdr (unpackElhdr s) = s)
  ∧ ∀ s : List Byte, s.length = 16 → packSuffix (unpackSuffix s) = s

/-- R128, item b: for a stream closed by PK.SUFFIX and not altered, UP.SUFFIX on it gives back the suffix
registers, with the recomputed CRC equal to the stored one. -/
def Obligations.UnpackedSuffixVerifies : Prop :=
  ∀ s t : State, s.err = 0 → s.tableBuilt → s.outWin.base.toNat ≤ s.outWin.pos.toNat →
    s.outWin.pos.toNat + 16 ≤ s.outWin.lim.toNat → s.outWin.pos.toNat + 16 ≤ s.memBytes →
    exec .pkSuffix s = .next t →
    ∃ u, exec .upSuffix
          { t with inWin := { base := s.outWin.base, pos := s.outWin.pos, lim := t.outWin.pos } }
        = .next u
      ∧ u.sfx = t.sfx ∧ u.acc = u.sfx.crc ∧ u.err = 0

/-- R74, R80, R81: in a well-formed file the suffix begins at stream offset dfu_image_size, the file is
dfu_image_size + 16 bytes long, and its last four bytes are the little-endian CRC of all the bytes before
them. -/
def Obligations.WellFormedFileSizes : Prop :=
  ∀ f : DfuFile, f.wellFormed →
    f.body.length = f.pfx.size.toNat
    ∧ f.bytes.length = f.pfx.size.toNat + 16
    ∧ f.bytes.drop (f.bytes.length - 4)
        = le32 (crcUpdate 0xFFFFFFFF (f.bytes.take (f.bytes.length - 4)))
end

