-- ==== Sys2Proof/Laws/Memory.lean ====
section
/-! SUPPORT. What reading and writing MEM do: read after write, bytes a write leaves alone, and the
canonical form of a memory. -/

namespace Sys2Proof.Machine

/-! ### Lists of cells -/

@[simp] theorem Memory.read_nil (a : Nat) : Memory.read [] a = none := rfl

theorem Memory.read_cons (k : Nat) (v : Byte) (m : Memory) (a : Nat) :
    Memory.read ((k, v) :: m) a = if k = a then some v else m.read a := rfl

theorem Memory.read_append (m n : Memory) (a : Nat) :
    Memory.read (m ++ n) a = (m.read a).or (n.read a) := by
  induction m with
  | nil => simp
  | cons c m ih =>
    obtain ⟨k, v⟩ := c
    rw [List.cons_append, Memory.read_cons, Memory.read_cons, ih]
    split <;> simp

theorem Memory.read_filter (p : Nat → Bool) (m : Memory) (a : Nat) :
    Memory.read (m.filter fun c => p c.1) a = if p a then m.read a else none := by
  induction m with
  | nil => simp
  | cons c m ih =>
    obtain ⟨k, v⟩ := c
    by_cases hk : p k = true
    · rw [List.filter_cons_of_pos (by simpa using hk), Memory.read_cons, Memory.read_cons, ih]
      by_cases h : k = a
      · subst h; simp [hk]
      · simp [h]
    · rw [List.filter_cons_of_neg (by simpa using hk), ih, Memory.read_cons]
      by_cases h : k = a
      · subst h; simp [hk]
      · simp [h]

theorem cellsFrom_read (k : Nat) (bs : List Byte) (a : Nat) :
    Memory.read (cellsFrom k bs) a = if k ≤ a then bs[a - k]? else none := by
  induction bs generalizing k with
  | nil => simp [cellsFrom]
  | cons b bs ih =>
    rw [cellsFrom, Memory.read_cons, ih]
    by_cases h : k = a
    · subst h; simp
    · by_cases h2 : k ≤ a
      · have h3 : k + 1 ≤ a := by omega
        have h4 : a - k = (a - (k + 1)) + 1 := by omega
        simp [h, h2, h3, h4]
      · have h3 : ¬ k + 1 ≤ a := by omega
        simp [h, h2, h3]

theorem cellsFrom_keys (k : Nat) (bs : List Byte) :
    ∀ c ∈ cellsFrom k bs, k ≤ c.1 ∧ c.1 < k + bs.length := by
  induction bs generalizing k with
  | nil => simp [cellsFrom]
  | cons b bs ih =>
    intro c hc
    rw [cellsFrom, List.mem_cons] at hc
    rcases hc with rfl | hc
    · simp
    · have := ih (k + 1) c hc
      simp only [List.length_cons]; omega

/-- Everything a write does to a memory, as seen by a read. -/
theorem Memory.read_write (m : Memory) (k : Nat) (bs : List Byte) (a : Nat) :
    (m.write k bs).read a = if k ≤ a ∧ a < k + bs.length then bs[a - k]? else m.read a := by
  unfold Memory.write
  split
  · rename_i h
    have : ¬ (k ≤ a ∧ a < k + bs.length) := by omega
    simp [this]
  · rw [Memory.read_append, Memory.read_append, Memory.read_filter (fun x => decide (x < k)),
      Memory.read_filter (fun x => decide (k + bs.length ≤ x)), cellsFrom_read]
    by_cases h1 : a < k
    · have h2 : ¬ k ≤ a := by omega
      have h3 : ¬ k + bs.length ≤ a := by omega
      simp [h1, h2, h3]
    · by_cases h3 : k + bs.length ≤ a
      · have h4 : ¬ a < k + bs.length := by omega
        have h5 : bs.length ≤ a - k := by omega
        simp [h1, h3, h4, List.getElem?_eq_none h5]
      · have h2 : k ≤ a := by omega
        have h4 : a < k + bs.length := by omega
        simp [h1, h2, h3, h4]

/-! ### The canonical form -/

theorem cellsFrom_wf (k : Nat) (bs : List Byte) : (cellsFrom k bs).wf := by
  induction bs generalizing k with
  | nil => simp [cellsFrom, Memory.wf]
  | cons b bs ih =>
    rw [cellsFrom, Memory.wf, List.pairwise_cons]
    exact ⟨fun c hc => by have := (cellsFrom_keys (k + 1) bs c hc).1; simp; omega, ih _⟩

theorem Memory.wf_filter {m : Memory} (p : Host.Cell → Bool) (h : m.wf) :
    Memory.wf (m.filter p) :=
  List.Pairwise.sublist List.filter_sublist h

/-- A write keeps the canonical form. -/
theorem Memory.wf_write {m : Memory} (k : Nat) (bs : List Byte) (h : m.wf) : (m.write k bs).wf := by
  unfold Memory.write
  split
  · exact h
  · refine List.pairwise_append.2 ⟨List.pairwise_append.2 ⟨Memory.wf_filter _ h, cellsFrom_wf k bs, ?_⟩,
      Memory.wf_filter _ h, ?_⟩
    · intro x hx y hy
      have h1 := (List.mem_filter.1 hx).2
      have h2 := cellsFrom_keys k bs y hy
      simp at h1; omega
    · intro x hx y hy
      have h2 := (List.mem_filter.1 hy).2
      simp at h2
      rcases List.mem_append.1 hx with hx | hx
      · have h1 := (List.mem_filter.1 hx).2
        simp at h1; omega
      · have h1 := cellsFrom_keys k bs x hx
        omega

/-- The reset memory has the canonical form. -/
theorem reset_mem_wf : State.reset.mem.wf := List.Pairwise.nil

/-- A write inside MEM lists only addresses of MEM. -/
theorem Memory.write_bounded {m : Memory} {k N : Nat} {bs : List Byte}
    (h : ∀ c ∈ m, c.1 < N) (hk : bs.length = 0 ∨ k + bs.length ≤ N) : ∀ c ∈ m.write k bs, c.1 < N := by
  unfold Memory.write
  split
  · exact h
  · intro c hc
    rw [List.mem_append, List.mem_append] at hc
    rcases hc with (hc | hc) | hc
    · exact h c (List.mem_filter.1 hc).1
    · have := cellsFrom_keys k bs c hc; omega
    · exact h c (List.mem_filter.1 hc).1

/-! ### Bytes of a state -/

/-- Everything a write does to a state, as seen by a read of one byte. -/
theorem State.readByte_writeBytes (s : State) (k : Nat) (bs : List Byte) (a : Nat) :
    (s.writeBytes k bs).readByte a
      = if h : k ≤ a ∧ a < k + bs.length then bs[a - k]'(by omega) else s.readByte a := by
  unfold State.readByte State.writeBytes
  simp only [Memory.read_write]
  split
  · rename_i h
    have h2 : a - k < bs.length := by omega
    simp [List.getElem?_eq_getElem h2]
  · rfl

theorem State.readByte_writeBytes_outside (s : State) {k : Nat} {bs : List Byte} {a : Nat}
    (h : a < k ∨ k + bs.length ≤ a) : (s.writeBytes k bs).readByte a = s.readByte a := by
  rw [State.readByte_writeBytes, dif_neg (by omega)]

@[simp] theorem State.readBytes_length (s : State) (a n : Nat) : (s.readBytes a n).length = n := by
  simp [State.readBytes]

theorem State.readBytes_getElem (s : State) (a n i : Nat) (h : i < (s.readBytes a n).length) :
    (s.readBytes a n)[i] = s.readByte (a + i) := by
  simp [State.readBytes]

@[simp] theorem State.readBytes_zero (s : State) (a : Nat) : s.readBytes a 0 = [] := rfl

@[simp] theorem State.writeBytes_nil (s : State) (a : Nat) : s.writeBytes a [] = s := rfl

/-- The bytes just written are the bytes read. -/
theorem State.readBytes_writeBytes (s : State) (k : Nat) (bs : List Byte) :
    (s.writeBytes k bs).readBytes k bs.length = bs := by
  apply List.ext_getElem (by simp)
  intro i h1 h2
  rw [State.readBytes_getElem, State.readByte_writeBytes, dif_pos (by omega)]
  simp

/-- Two ranges that meet are one range. -/
theorem State.readBytes_append (s : State) (a n m : Nat) :
    s.readBytes a n ++ s.readBytes (a + n) m = s.readBytes a (n + m) := by
  simp only [State.readBytes, List.range_add, List.map_append, List.map_map]
  congr 1
  apply List.map_congr_left
  intro i _
  simp [Nat.add_assoc]

/-- Reading depends only on the listed bytes and the epoch. -/
theorem State.readByte_congr {s t : State} (hm : t.mem = s.mem) (he : t.memEpoch = s.memEpoch) (a : Nat) :
    t.readByte a = s.readByte a := by
  simp [State.readByte, hm, he]

theorem State.readBytes_congr {s t : State} (hm : t.mem = s.mem) (he : t.memEpoch = s.memEpoch)
    (a n : Nat) : t.readBytes a n = s.readBytes a n := by
  simp [State.readBytes, State.readByte_congr hm he]

end Sys2Proof.Machine
end

