-- ==== Sys2Proof/Laws/State.lean ====
section
/-! SUPPORT. One lemma per field of State per update: what a named update writes and what it leaves alone. -/

namespace Sys2Proof.Machine

/-! ### writeBytes -/

@[simp] theorem State.writeBytes_err (s : State) (a : Nat) (bs : List Byte) : (s.writeBytes a bs).err = s.err := rfl
@[simp] theorem State.writeBytes_errInfo (s : State) (a : Nat) (bs : List Byte) : (s.writeBytes a bs).errInfo = s.errInfo := rfl
@[simp] theorem State.writeBytes_arg0 (s : State) (a : Nat) (bs : List Byte) : (s.writeBytes a bs).arg0 = s.arg0 := rfl
@[simp] theorem State.writeBytes_arg1 (s : State) (a : Nat) (bs : List Byte) : (s.writeBytes a bs).arg1 = s.arg1 := rfl
@[simp] theorem State.writeBytes_arg2 (s : State) (a : Nat) (bs : List Byte) : (s.writeBytes a bs).arg2 = s.arg2 := rfl
@[simp] theorem State.writeBytes_acc (s : State) (a : Nat) (bs : List Byte) : (s.writeBytes a bs).acc = s.acc := rfl
@[simp] theorem State.writeBytes_tbl (s : State) (a : Nat) (bs : List Byte) : (s.writeBytes a bs).tbl = s.tbl := rfl
@[simp] theorem State.writeBytes_tvalid (s : State) (a : Nat) (bs : List Byte) : (s.writeBytes a bs).tvalid = s.tvalid := rfl
@[simp] theorem State.writeBytes_outWin (s : State) (a : Nat) (bs : List Byte) : (s.writeBytes a bs).outWin = s.outWin := rfl
@[simp] theorem State.writeBytes_inWin (s : State) (a : Nat) (bs : List Byte) : (s.writeBytes a bs).inWin = s.inWin := rfl
@[simp] theorem State.writeBytes_pfx (s : State) (a : Nat) (bs : List Byte) : (s.writeBytes a bs).pfx = s.pfx := rfl
@[simp] theorem State.writeBytes_tgt (s : State) (a : Nat) (bs : List Byte) : (s.writeBytes a bs).tgt = s.tgt := rfl
@[simp] theorem State.writeBytes_el (s : State) (a : Nat) (bs : List Byte) : (s.writeBytes a bs).el = s.el := rfl
@[simp] theorem State.writeBytes_sfx (s : State) (a : Nat) (bs : List Byte) : (s.writeBytes a bs).sfx = s.sfx := rfl
@[simp] theorem State.writeBytes_mem (s : State) (a : Nat) (bs : List Byte) : (s.writeBytes a bs).mem = s.mem.write a bs := rfl
@[simp] theorem State.writeBytes_memBytes (s : State) (a : Nat) (bs : List Byte) : (s.writeBytes a bs).memBytes = s.memBytes := rfl
@[simp] theorem State.writeBytes_memEpoch (s : State) (a : Nat) (bs : List Byte) : (s.writeBytes a bs).memEpoch = s.memEpoch := rfl
@[simp] theorem State.writeBytes_script (s : State) (a : Nat) (bs : List Byte) : (s.writeBytes a bs).script = s.script := rfl
@[simp] theorem State.writeBytes_reply (s : State) (a : Nat) (bs : List Byte) : (s.writeBytes a bs).reply = s.reply := rfl

/-! ### begin -/

@[simp] theorem State.begin_err (s : State) (rest : List HostAction) : (s.begin rest).err = s.err := rfl
@[simp] theorem State.begin_errInfo (s : State) (rest : List HostAction) : (s.begin rest).errInfo = s.errInfo := rfl
@[simp] theorem State.begin_arg0 (s : State) (rest : List HostAction) : (s.begin rest).arg0 = s.arg0 := rfl
@[simp] theorem State.begin_arg1 (s : State) (rest : List HostAction) : (s.begin rest).arg1 = s.arg1 := rfl
@[simp] theorem State.begin_arg2 (s : State) (rest : List HostAction) : (s.begin rest).arg2 = s.arg2 := rfl
@[simp] theorem State.begin_acc (s : State) (rest : List HostAction) : (s.begin rest).acc = s.acc := rfl
@[simp] theorem State.begin_tbl (s : State) (rest : List HostAction) : (s.begin rest).tbl = s.tbl := rfl
@[simp] theorem State.begin_tvalid (s : State) (rest : List HostAction) : (s.begin rest).tvalid = s.tvalid := rfl
@[simp] theorem State.begin_outWin (s : State) (rest : List HostAction) : (s.begin rest).outWin = s.outWin := rfl
@[simp] theorem State.begin_inWin (s : State) (rest : List HostAction) : (s.begin rest).inWin = s.inWin := rfl
@[simp] theorem State.begin_pfx (s : State) (rest : List HostAction) : (s.begin rest).pfx = s.pfx := rfl
@[simp] theorem State.begin_tgt (s : State) (rest : List HostAction) : (s.begin rest).tgt = s.tgt := rfl
@[simp] theorem State.begin_el (s : State) (rest : List HostAction) : (s.begin rest).el = s.el := rfl
@[simp] theorem State.begin_sfx (s : State) (rest : List HostAction) : (s.begin rest).sfx = s.sfx := rfl
@[simp] theorem State.begin_mem (s : State) (rest : List HostAction) : (s.begin rest).mem = s.mem := rfl
@[simp] theorem State.begin_memBytes (s : State) (rest : List HostAction) : (s.begin rest).memBytes = s.memBytes := rfl
@[simp] theorem State.begin_memEpoch (s : State) (rest : List HostAction) : (s.begin rest).memEpoch = s.memEpoch := rfl
@[simp] theorem State.begin_script (s : State) (rest : List HostAction) : (s.begin rest).script = rest := rfl
@[simp] theorem State.begin_reply (s : State) (rest : List HostAction) : (s.begin rest).reply = .nothing := rfl

/-! ### withCommandWord -/

@[simp] theorem State.withCommandWord_err (s : State) (nbits w : Nat) : (s.withCommandWord nbits w).err = s.err := rfl
@[simp] theorem State.withCommandWord_errInfo (s : State) (nbits w : Nat) : (s.withCommandWord nbits w).errInfo = s.errInfo := rfl
@[simp] theorem State.withCommandWord_arg0 (s : State) (nbits w : Nat) : (s.withCommandWord nbits w).arg0 = s.arg0 := rfl
@[simp] theorem State.withCommandWord_arg1 (s : State) (nbits w : Nat) : (s.withCommandWord nbits w).arg1 = s.arg1 := rfl
@[simp] theorem State.withCommandWord_arg2 (s : State) (nbits w : Nat) : (s.withCommandWord nbits w).arg2 = s.arg2 := rfl
@[simp] theorem State.withCommandWord_acc (s : State) (nbits w : Nat) : (s.withCommandWord nbits w).acc = s.acc := rfl
@[simp] theorem State.withCommandWord_tbl (s : State) (nbits w : Nat) : (s.withCommandWord nbits w).tbl = s.tbl := rfl
@[simp] theorem State.withCommandWord_tvalid (s : State) (nbits w : Nat) : (s.withCommandWord nbits w).tvalid = s.tvalid := rfl
@[simp] theorem State.withCommandWord_outWin (s : State) (nbits w : Nat) : (s.withCommandWord nbits w).outWin = s.outWin := rfl
@[simp] theorem State.withCommandWord_inWin (s : State) (nbits w : Nat) : (s.withCommandWord nbits w).inWin = s.inWin := rfl
@[simp] theorem State.withCommandWord_pfx (s : State) (nbits w : Nat) : (s.withCommandWord nbits w).pfx = s.pfx := rfl
@[simp] theorem State.withCommandWord_tgt (s : State) (nbits w : Nat) : (s.withCommandWord nbits w).tgt = s.tgt := rfl
@[simp] theorem State.withCommandWord_el (s : State) (nbits w : Nat) : (s.withCommandWord nbits w).el = s.el := rfl
@[simp] theorem State.withCommandWord_sfx (s : State) (nbits w : Nat) : (s.withCommandWord nbits w).sfx = s.sfx := rfl
@[simp] theorem State.withCommandWord_mem (s : State) (nbits w : Nat) : (s.withCommandWord nbits w).mem = s.mem := rfl
@[simp] theorem State.withCommandWord_memBytes (s : State) (nbits w : Nat) : (s.withCommandWord nbits w).memBytes = s.memBytes := rfl
@[simp] theorem State.withCommandWord_memEpoch (s : State) (nbits w : Nat) : (s.withCommandWord nbits w).memEpoch = s.memEpoch := rfl
@[simp] theorem State.withCommandWord_script (s : State) (nbits w : Nat) : (s.withCommandWord nbits w).script = .wr (regNumber .cmd) (BitVec.ofNat 32 (w % 2 ^ nbits)) :: s.script := rfl
@[simp] theorem State.withCommandWord_reply (s : State) (nbits w : Nat) : (s.withCommandWord nbits w).reply = s.reply := rfl

/-! ### withFetchWord -/

@[simp] theorem State.withFetchWord_err (s : State) (nbits w : Nat) : (s.withFetchWord nbits w).err = s.err := rfl
@[simp] theorem State.withFetchWord_errInfo (s : State) (nbits w : Nat) : (s.withFetchWord nbits w).errInfo = s.errInfo := rfl
@[simp] theorem State.withFetchWord_arg0 (s : State) (nbits w : Nat) : (s.withFetchWord nbits w).arg0 = s.arg0 := rfl
@[simp] theorem State.withFetchWord_arg1 (s : State) (nbits w : Nat) : (s.withFetchWord nbits w).arg1 = s.arg1 := rfl
@[simp] theorem State.withFetchWord_arg2 (s : State) (nbits w : Nat) : (s.withFetchWord nbits w).arg2 = s.arg2 := rfl
@[simp] theorem State.withFetchWord_acc (s : State) (nbits w : Nat) : (s.withFetchWord nbits w).acc = s.acc := rfl
@[simp] theorem State.withFetchWord_tbl (s : State) (nbits w : Nat) : (s.withFetchWord nbits w).tbl = s.tbl := rfl
@[simp] theorem State.withFetchWord_tvalid (s : State) (nbits w : Nat) : (s.withFetchWord nbits w).tvalid = s.tvalid := rfl
@[simp] theorem State.withFetchWord_outWin (s : State) (nbits w : Nat) : (s.withFetchWord nbits w).outWin = s.outWin := rfl
@[simp] theorem State.withFetchWord_inWin (s : State) (nbits w : Nat) : (s.withFetchWord nbits w).inWin = s.inWin := rfl
@[simp] theorem State.withFetchWord_pfx (s : State) (nbits w : Nat) : (s.withFetchWord nbits w).pfx = s.pfx := rfl
@[simp] theorem State.withFetchWord_tgt (s : State) (nbits w : Nat) : (s.withFetchWord nbits w).tgt = s.tgt := rfl
@[simp] theorem State.withFetchWord_el (s : State) (nbits w : Nat) : (s.withFetchWord nbits w).el = s.el := rfl
@[simp] theorem State.withFetchWord_sfx (s : State) (nbits w : Nat) : (s.withFetchWord nbits w).sfx = s.sfx := rfl
@[simp] theorem State.withFetchWord_mem (s : State) (nbits w : Nat) : (s.withFetchWord nbits w).mem = s.mem := rfl
@[simp] theorem State.withFetchWord_memBytes (s : State) (nbits w : Nat) : (s.withFetchWord nbits w).memBytes = s.memBytes := rfl
@[simp] theorem State.withFetchWord_memEpoch (s : State) (nbits w : Nat) : (s.withFetchWord nbits w).memEpoch = s.memEpoch := rfl
@[simp] theorem State.withFetchWord_script (s : State) (nbits w : Nat) : (s.withFetchWord nbits w).script = .wr (regNumber .cmd) (BitVec.ofNat 32 (w % 2 ^ nbits)) :: s.script := rfl
@[simp] theorem State.withFetchWord_reply (s : State) (nbits w : Nat) : (s.withFetchWord nbits w).reply = s.reply := rfl

/-! ### latched -/

@[simp] theorem State.latched_err (s : State) (e : Trap) : (s.latched e).err = faultCode e.kind := rfl
@[simp] theorem State.latched_errInfo (s : State) (e : Trap) : (s.latched e).errInfo = e.info := rfl
@[simp] theorem State.latched_arg0 (s : State) (e : Trap) : (s.latched e).arg0 = s.arg0 := rfl
@[simp] theorem State.latched_arg1 (s : State) (e : Trap) : (s.latched e).arg1 = s.arg1 := rfl
@[simp] theorem State.latched_arg2 (s : State) (e : Trap) : (s.latched e).arg2 = s.arg2 := rfl
@[simp] theorem State.latched_acc (s : State) (e : Trap) : (s.latched e).acc = s.acc := rfl
@[simp] theorem State.latched_tbl (s : State) (e : Trap) : (s.latched e).tbl = s.tbl := rfl
@[simp] theorem State.latched_tvalid (s : State) (e : Trap) : (s.latched e).tvalid = s.tvalid := rfl
@[simp] theorem State.latched_outWin (s : State) (e : Trap) : (s.latched e).outWin = s.outWin := rfl
@[simp] theorem State.latched_inWin (s : State) (e : Trap) : (s.latched e).inWin = s.inWin := rfl
@[simp] theorem State.latched_pfx (s : State) (e : Trap) : (s.latched e).pfx = s.pfx := rfl
@[simp] theorem State.latched_tgt (s : State) (e : Trap) : (s.latched e).tgt = s.tgt := rfl
@[simp] theorem State.latched_el (s : State) (e : Trap) : (s.latched e).el = s.el := rfl
@[simp] theorem State.latched_sfx (s : State) (e : Trap) : (s.latched e).sfx = s.sfx := rfl
@[simp] theorem State.latched_mem (s : State) (e : Trap) : (s.latched e).mem = s.mem := rfl
@[simp] theorem State.latched_memBytes (s : State) (e : Trap) : (s.latched e).memBytes = s.memBytes := rfl
@[simp] theorem State.latched_memEpoch (s : State) (e : Trap) : (s.latched e).memEpoch = s.memEpoch := rfl
@[simp] theorem State.latched_script (s : State) (e : Trap) : (s.latched e).script = s.script := rfl
@[simp] theorem State.latched_reply (s : State) (e : Trap) : (s.latched e).reply = s.reply := rfl

/-! ### softReset -/

@[simp] theorem softReset_err (s : State) : (softReset s).err = 0 := rfl
@[simp] theorem softReset_errInfo (s : State) : (softReset s).errInfo = 0 := rfl
@[simp] theorem softReset_arg0 (s : State) : (softReset s).arg0 = 0 := rfl
@[simp] theorem softReset_arg1 (s : State) : (softReset s).arg1 = 0 := rfl
@[simp] theorem softReset_arg2 (s : State) : (softReset s).arg2 = 0 := rfl
@[simp] theorem softReset_acc (s : State) : (softReset s).acc = crcSeed := rfl
@[simp] theorem softReset_tbl (s : State) : (softReset s).tbl = s.tbl := rfl
@[simp] theorem softReset_tvalid (s : State) : (softReset s).tvalid = s.tvalid := rfl
@[simp] theorem softReset_outWin (s : State) : (softReset s).outWin = .zero := rfl
@[simp] theorem softReset_inWin (s : State) : (softReset s).inWin = .zero := rfl
@[simp] theorem softReset_pfx (s : State) : (softReset s).pfx = .zero := rfl
@[simp] theorem softReset_tgt (s : State) : (softReset s).tgt = .zero := rfl
@[simp] theorem softReset_el (s : State) : (softReset s).el = .zero := rfl
@[simp] theorem softReset_sfx (s : State) : (softReset s).sfx = .zero := rfl
@[simp] theorem softReset_mem (s : State) : (softReset s).mem = s.mem := rfl
@[simp] theorem softReset_memBytes (s : State) : (softReset s).memBytes = s.memBytes := rfl
@[simp] theorem softReset_memEpoch (s : State) : (softReset s).memEpoch = s.memEpoch := rfl
@[simp] theorem softReset_script (s : State) : (softReset s).script = s.script := rfl
@[simp] theorem softReset_reply (s : State) : (softReset s).reply = s.reply := rfl

/-! ### hardReset -/

@[simp] theorem hardReset_err (s : State) : (hardReset s).err = 0 := rfl
@[simp] theorem hardReset_errInfo (s : State) : (hardReset s).errInfo = 0 := rfl
@[simp] theorem hardReset_arg0 (s : State) : (hardReset s).arg0 = 0 := rfl
@[simp] theorem hardReset_arg1 (s : State) : (hardReset s).arg1 = 0 := rfl
@[simp] theorem hardReset_arg2 (s : State) : (hardReset s).arg2 = 0 := rfl
@[simp] theorem hardReset_acc (s : State) : (hardReset s).acc = 0xFFFFFFFF := rfl
@[simp] theorem hardReset_tbl (s : State) : (hardReset s).tbl = State.reset.tbl := rfl
@[simp] theorem hardReset_tvalid (s : State) : (hardReset s).tvalid = false := rfl
@[simp] theorem hardReset_outWin (s : State) : (hardReset s).outWin = .zero := rfl
@[simp] theorem hardReset_inWin (s : State) : (hardReset s).inWin = .zero := rfl
@[simp] theorem hardReset_pfx (s : State) : (hardReset s).pfx = .zero := rfl
@[simp] theorem hardReset_tgt (s : State) : (hardReset s).tgt = .zero := rfl
@[simp] theorem hardReset_el (s : State) : (hardReset s).el = .zero := rfl
@[simp] theorem hardReset_sfx (s : State) : (hardReset s).sfx = .zero := rfl
@[simp] theorem hardReset_mem (s : State) : (hardReset s).mem = [] := rfl
@[simp] theorem hardReset_memBytes (s : State) : (hardReset s).memBytes = s.memBytes := rfl
@[simp] theorem hardReset_memEpoch (s : State) : (hardReset s).memEpoch = s.memEpoch + 1 := rfl
@[simp] theorem hardReset_script (s : State) : (hardReset s).script = s.script := rfl
@[simp] theorem hardReset_reply (s : State) : (hardReset s).reply = s.reply := rfl

/-! ### raise -/

@[simp] theorem raise_arg0 (e : Trap) (s : State) : (raise e s).arg0 = s.arg0 := by unfold raise; split <;> rfl
@[simp] theorem raise_arg1 (e : Trap) (s : State) : (raise e s).arg1 = s.arg1 := by unfold raise; split <;> rfl
@[simp] theorem raise_arg2 (e : Trap) (s : State) : (raise e s).arg2 = s.arg2 := by unfold raise; split <;> rfl
@[simp] theorem raise_acc (e : Trap) (s : State) : (raise e s).acc = s.acc := by unfold raise; split <;> rfl
@[simp] theorem raise_tbl (e : Trap) (s : State) : (raise e s).tbl = s.tbl := by unfold raise; split <;> rfl
@[simp] theorem raise_tvalid (e : Trap) (s : State) : (raise e s).tvalid = s.tvalid := by unfold raise; split <;> rfl
@[simp] theorem raise_outWin (e : Trap) (s : State) : (raise e s).outWin = s.outWin := by unfold raise; split <;> rfl
@[simp] theorem raise_inWin (e : Trap) (s : State) : (raise e s).inWin = s.inWin := by unfold raise; split <;> rfl
@[simp] theorem raise_pfx (e : Trap) (s : State) : (raise e s).pfx = s.pfx := by unfold raise; split <;> rfl
@[simp] theorem raise_tgt (e : Trap) (s : State) : (raise e s).tgt = s.tgt := by unfold raise; split <;> rfl
@[simp] theorem raise_el (e : Trap) (s : State) : (raise e s).el = s.el := by unfold raise; split <;> rfl
@[simp] theorem raise_sfx (e : Trap) (s : State) : (raise e s).sfx = s.sfx := by unfold raise; split <;> rfl
@[simp] theorem raise_mem (e : Trap) (s : State) : (raise e s).mem = s.mem := by unfold raise; split <;> rfl
@[simp] theorem raise_memBytes (e : Trap) (s : State) : (raise e s).memBytes = s.memBytes := by unfold raise; split <;> rfl
@[simp] theorem raise_memEpoch (e : Trap) (s : State) : (raise e s).memEpoch = s.memEpoch := by unfold raise; split <;> rfl
@[simp] theorem raise_script (e : Trap) (s : State) : (raise e s).script = s.script := by unfold raise; split <;> rfl
@[simp] theorem raise_reply (e : Trap) (s : State) : (raise e s).reply = s.reply := by unfold raise; split <;> rfl

/-! ### writeReg: what no host register write touches -/

@[simp] theorem State.writeReg_err (s : State) (r : Reg) (d : Word) : (s.writeReg r d).err = s.err := by
  cases r <;> rfl
@[simp] theorem State.writeReg_errInfo (s : State) (r : Reg) (d : Word) : (s.writeReg r d).errInfo = s.errInfo := by
  cases r <;> rfl
@[simp] theorem State.writeReg_tbl (s : State) (r : Reg) (d : Word) : (s.writeReg r d).tbl = s.tbl := by
  cases r <;> rfl
@[simp] theorem State.writeReg_tvalid (s : State) (r : Reg) (d : Word) : (s.writeReg r d).tvalid = s.tvalid := by
  cases r <;> rfl
@[simp] theorem State.writeReg_mem (s : State) (r : Reg) (d : Word) : (s.writeReg r d).mem = s.mem := by
  cases r <;> rfl
@[simp] theorem State.writeReg_memBytes (s : State) (r : Reg) (d : Word) : (s.writeReg r d).memBytes = s.memBytes := by
  cases r <;> rfl
@[simp] theorem State.writeReg_memEpoch (s : State) (r : Reg) (d : Word) : (s.writeReg r d).memEpoch = s.memEpoch := by
  cases r <;> rfl
@[simp] theorem State.writeReg_script (s : State) (r : Reg) (d : Word) : (s.writeReg r d).script = s.script := by
  cases r <;> rfl
@[simp] theorem State.writeReg_reply (s : State) (r : Reg) (d : Word) : (s.writeReg r d).reply = s.reply := by
  cases r <;> rfl

end Sys2Proof.Machine
end

