-- ==== Sys2Proof/Laws/Ops.lean ====
section
/-! SUPPORT. What each shared operation can do, said once: taking a fault, the frame of a command, the
stream windows, and one host action. -/

namespace Sys2Proof.Machine

/-! ### Faults -/

/-- Every fault code is non-zero: a raise is visible in ERR. -/
theorem faultCode_ne_zero (k : FaultKind) : faultCode k ≠ 0 := by cases k <;> decide

/-- Different kinds have different codes. -/
theorem faultCode_injective {k l : FaultKind} (h : faultCode k = faultCode l) : k = l := by
  cases k <;> cases l <;> first | rfl | exact absurd h (by decide)

theorem raise_of_clear {e : Trap} {s : State} (h : s.err = 0) : raise e s = s.latched e := if_pos h

theorem raise_of_latched {e : Trap} {s : State} (h : s.err ≠ 0) : raise e s = s := if_neg h

/-! ### The frame of a command -/

theorem runCommand_of_latched {rule : State → Except Trap State} {s : State} (h : s.err ≠ 0) :
    runCommand rule s = .next s := if_neg h

theorem runCommand_of_ok {rule : State → Except Trap State} {s t : State} (h : s.err = 0)
    (hr : rule s = .ok t) : runCommand rule s = .next t := by
  simp [runCommand, h, hr]

theorem runCommand_of_error {rule : State → Except Trap State} {s : State} {e : Trap} (h : s.err = 0)
    (hr : rule s = .error e) : runCommand rule s = .next (s.latched e) := by
  simp [runCommand, h, hr, raise_of_clear]

/-- Everything a command can do: it is ignored, it completes, or it takes a fault. -/
theorem runCommand_cases {rule : State → Except Trap State} {s t : State}
    (h : runCommand rule s = .next t) :
    (s.err ≠ 0 ∧ t = s) ∨ (s.err = 0 ∧ rule s = .ok t)
      ∨ (s.err = 0 ∧ ∃ e, rule s = .error e ∧ t = s.latched e) := by
  by_cases hs : s.err = 0
  · cases hr : rule s with
    | ok u =>
      rw [runCommand_of_ok hs hr] at h
      cases h; exact .inr (.inl ⟨hs, rfl⟩)
    | error e =>
      rw [runCommand_of_error hs hr] at h
      cases h; exact .inr (.inr ⟨hs, e, rfl, rfl⟩)
  · rw [runCommand_of_latched hs] at h
    cases h; exact .inl ⟨hs, rfl⟩

/-- A command always answers a next state. -/
theorem runCommand_next (rule : State → Except Trap State) (s : State) :
    ∃ t, runCommand rule s = .next t := by
  by_cases hs : s.err = 0
  · cases hr : rule s with
    | ok u => exact ⟨u, runCommand_of_ok hs hr⟩
    | error e => exact ⟨_, runCommand_of_error hs hr⟩
  · exact ⟨s, runCommand_of_latched hs⟩

/-! ### Stream windows -/

/-- Everything `emit` can do. -/
theorem emit_cases (bs : List Byte) (s : State) :
    (0 < bs.length ∧ s.outWin.lim.toNat < s.outWin.pos.toNat + bs.length
      ∧ emit bs s = .error ⟨.ioWriteShort, s.outWin.pos⟩)
    ∨ (0 < bs.length ∧ s.outWin.pos.toNat + bs.length ≤ s.outWin.lim.toNat
      ∧ s.memBytes < s.outWin.pos.toNat + bs.length
      ∧ emit bs s = .error ⟨.bufRange, s.outWin.pos⟩)
    ∨ ((bs.length = 0 ∨ (s.outWin.pos.toNat + bs.length ≤ s.outWin.lim.toNat
        ∧ s.outWin.pos.toNat + bs.length ≤ s.memBytes))
      ∧ emit bs s = .ok { s.writeBytes s.outWin.pos.toNat bs with
          outWin := { s.outWin with
            pos := BitVec.ofNat 32 (s.outWin.pos.toNat + bs.length) } }) := by
  unfold emit
  dsimp only
  split
  · rename_i h; exact .inl ⟨h.1, by omega, rfl⟩
  · split
    · rename_i h1 h2; exact .inr (.inl ⟨h2.1, by omega, by omega, rfl⟩)
    · rename_i h1 h2; exact .inr (.inr ⟨by omega, rfl⟩)

/-- Everything `takeStream` can do. -/
theorem takeStream_cases (n : Nat) (s : State) :
    (0 < n ∧ s.inWin.lim.toNat < s.inWin.pos.toNat + n
      ∧ takeStream n s = .error ⟨.ioReadShort, s.inWin.pos⟩)
    ∨ (0 < n ∧ s.inWin.pos.toNat + n ≤ s.inWin.lim.toNat ∧ s.memBytes < s.inWin.pos.toNat + n
      ∧ takeStream n s = .error ⟨.bufRange, s.inWin.pos⟩)
    ∨ ((n = 0 ∨ (s.inWin.pos.toNat + n ≤ s.inWin.lim.toNat ∧ s.inWin.pos.toNat + n ≤ s.memBytes))
      ∧ takeStream n s = .ok (s.readBytes s.inWin.pos.toNat n,
          { s with inWin := { s.inWin with pos := BitVec.ofNat 32 (s.inWin.pos.toNat + n) } })) := by
  unfold takeStream
  dsimp only
  split
  · rename_i h; exact .inl ⟨h.1, by omega, rfl⟩
  · split
    · rename_i h1 h2; exact .inr (.inl ⟨h2.1, by omega, by omega, rfl⟩)
    · rename_i h1 h2; exact .inr (.inr ⟨by omega, rfl⟩)

/-- Everything `loadStream` can do. -/
theorem loadStream_cases (n : Nat) (load : List Byte → State → State) (s : State) :
    (0 < n ∧ s.inWin.lim.toNat < s.inWin.pos.toNat + n
      ∧ loadStream n load s = .error ⟨.ioReadShort, s.inWin.pos⟩)
    ∨ (0 < n ∧ s.inWin.pos.toNat + n ≤ s.inWin.lim.toNat ∧ s.memBytes < s.inWin.pos.toNat + n
      ∧ loadStream n load s = .error ⟨.bufRange, s.inWin.pos⟩)
    ∨ ((n = 0 ∨ (s.inWin.pos.toNat + n ≤ s.inWin.lim.toNat ∧ s.inWin.pos.toNat + n ≤ s.memBytes))
      ∧ loadStream n load s = .ok (load (s.readBytes s.inWin.pos.toNat n)
          { s with inWin := { s.inWin with pos := BitVec.ofNat 32 (s.inWin.pos.toNat + n) } })) := by
  unfold loadStream
  rcases takeStream_cases n s with ⟨h0, h1, h⟩ | ⟨h0, h1, h2, h⟩ | ⟨h1, h⟩
  · exact .inl ⟨h0, h1, by rw [h]⟩
  · exact .inr (.inl ⟨h0, h1, h2, by rw [h]⟩)
  · exact .inr (.inr ⟨h1, by rw [h]⟩)

/-- A position that fits below a 32-bit limit is stored without wrapping (R36). -/
theorem toNat_ofNat_of_le {n : Nat} {lim : Word} (h : n ≤ lim.toNat) :
    (BitVec.ofNat 32 n).toNat = n := by
  have := lim.isLt
  simp only [BitVec.toNat_ofNat]
  exact Nat.mod_eq_of_lt (by omega)

/-! ### One host action -/

/-- Everything a step can do: wait, refuse a MEM access outside MEM, or perform the next action. -/
theorem takeAction_cases (s : State) :
    (s.script = [] ∧ takeAction s = .next s)
    ∨ (∃ a rest, s.script = a :: rest ∧ a.wf s.memBytes = false
        ∧ takeAction s = .refused .hostAccessOutsideMem)
    ∨ (∃ a rest, s.script = a :: rest ∧ a.wf s.memBytes = true
        ∧ takeAction s = performAction a (s.begin rest)) := by
  unfold takeAction
  cases s.script with
  | nil => exact .inl ⟨rfl, rfl⟩
  | cons a rest =>
    cases h : a.wf s.memBytes with
    | false => exact .inr (.inl ⟨a, rest, rfl, h, by simp [h]⟩)
    | true => exact .inr (.inr ⟨a, rest, rfl, h, by simp [h]⟩)

/-- Everything a write to CMD can do: run a command, or raise IllegalCmd. -/
theorem commandWrite_cases (w : Word) (s : State) :
    (∃ i, decode w = .ok i ∧ commandWrite w s = exec i s)
    ∨ (∃ r, decode w = .error r ∧ commandWrite w s = .next (raise ⟨.illegalCmd, w⟩ s)) := by
  unfold commandWrite
  cases h : decode w with
  | ok i => exact .inl ⟨i, rfl, rfl⟩
  | error r => exact .inr ⟨r, rfl, rfl⟩

end Sys2Proof.Machine
end

