-- ==== Sys2Proof/Laws/Exec.lean ====
section
/-! SUPPORT. Every command but SYS.RESET is its rule run in the frame of `runCommand`: what `exec` can do,
said once. -/

namespace Sys2Proof.Machine

/-- The rule of each command; SYS.RESET's is its soft reset, which `exec` runs outside the frame. -/
def ruleOf : Instr → State → Except Trap State
  | .nop => ruleNop
  | .sysReset => fun s => .ok (softReset s)
  | .crcTinit => ruleCrcTinit
  | .crcSeed => ruleCrcSeed
  | .crcByte imm8 => ruleCrcByte imm8
  | .crcBlock => ruleCrcBlock
  | .dmInit => ruleDmInit
  | .dmAddimg imm8 => ruleDmAddimg imm8
  | .dmAddel => ruleDmAddel
  | .pkPrefix => rulePkPrefix
  | .pkTprefix => rulePkTprefix
  | .pkElhdr => rulePkElhdr
  | .pkData => rulePkData
  | .pkSuffix => rulePkSuffix
  | .upPrefix => ruleUpPrefix
  | .upTprefix => ruleUpTprefix
  | .upElhdr => ruleUpElhdr
  | .upData => ruleUpData
  | .upSuffix => ruleUpSuffix

theorem exec_sysReset (s : State) : exec .sysReset s = .next (softReset s) := rfl

theorem exec_eq_runCommand {i : Instr} (hi : i ≠ .sysReset) (s : State) :
    exec i s = runCommand (ruleOf i) s := by
  cases i <;> first | rfl | exact absurd rfl hi

theorem exec_of_latched {i : Instr} {s : State} (hi : i ≠ .sysReset) (h : s.err ≠ 0) :
    exec i s = .next s := by
  rw [exec_eq_runCommand hi, runCommand_of_latched h]

/-- With no fault latched, a command whose rule completes answers the rule's state. -/
theorem exec_of_ok {i : Instr} {s t : State} (h : s.err = 0) (hr : ruleOf i s = .ok t) :
    exec i s = .next t := by
  by_cases hi : i = .sysReset
  · subst hi
    cases hr; rfl
  · rw [exec_eq_runCommand hi, runCommand_of_ok h hr]

/-- With no fault latched, a command whose rule raises takes the fault. -/
theorem exec_of_error {i : Instr} {s : State} {e : Trap} (h : s.err = 0)
    (hr : ruleOf i s = .error e) : exec i s = .next (s.latched e) := by
  by_cases hi : i = .sysReset
  · subst hi
    cases hr
  · rw [exec_eq_runCommand hi, runCommand_of_error h hr]

/-- Everything a command can do. -/
theorem exec_cases {i : Instr} {s t : State} (h : exec i s = .next t) :
    (i = .sysReset ∧ t = softReset s) ∨ (i ≠ .sysReset ∧ s.err ≠ 0 ∧ t = s)
      ∨ (i ≠ .sysReset ∧ s.err = 0 ∧ ruleOf i s = .ok t)
      ∨ (i ≠ .sysReset ∧ s.err = 0 ∧ ∃ e, ruleOf i s = .error e ∧ t = s.latched e) := by
  by_cases hi : i = .sysReset
  · subst hi
    cases h; exact .inl ⟨rfl, rfl⟩
  · rw [exec_eq_runCommand hi] at h
    rcases runCommand_cases h with ⟨h1, h2⟩ | ⟨h1, h2⟩ | ⟨h1, h2⟩
    · exact .inr (.inl ⟨hi, h1, h2⟩)
    · exact .inr (.inr (.inl ⟨hi, h1, h2⟩))
    · exact .inr (.inr (.inr ⟨hi, h1, h2⟩))

end Sys2Proof.Machine
end

