-- ==== Sys2Proof/Laws/Layout.lean ====
section
/-! SUPPORT. The lengths of the structures, the elements of a loaded byte array and of the CRC table. -/

namespace Sys2Proof.Machine

@[simp] theorem le16_length (v : Half) : (le16 v).length = 2 := rfl

@[simp] theorem le32_length (v : Word) : (le32 v).length = 4 := rfl

@[simp] theorem packPrefix_length (p : PrefixRegs) : (packPrefix p).length = 11 := by
  simp [packPrefix]

@[simp] theorem packTprefix_length (t : TargetRegs) : (packTprefix t).length = 271 := by
  simp [packTprefix]

@[simp] theorem packElhdr_length (e : ElementRegs) : (packElhdr e).length = 8 := by
  simp [packElhdr]

@[simp] theorem packSuffix12_length (x : SuffixRegs) : (packSuffix12 x).length = 12 := by
  simp [packSuffix12]

@[simp] theorem packSuffix_length (x : SuffixRegs) : (packSuffix x).length = 16 := by
  simp [packSuffix]

/-- A loaded byte array holds the bytes of the sequence, then zeros. -/
theorem byteArray_getElem (n : Nat) (s : List Byte) (i : Nat) (h : i < n) :
    (byteArray n s)[i] = byteAt s i := by
  simp only [byteArray, Vector.getElem_mk, List.getElem_toArray, List.getElem_take, byteAt]
  by_cases hi : i < s.length
  · rw [List.getElem_append_left hi]
    simp [hi]
  · rw [List.getElem_append_right (by omega)]
    simp [List.getD, List.getElem?_eq_none (by omega : s.length ≤ i)]

/-- An entry of the table is the constant of R85. -/
theorem crcTable_getElem (i : Nat) (h : i < 256) : crcTable[i] = crcEntry i := by
  simp [crcTable]

/-- The fold of R87, one byte at a time. -/
@[simp] theorem crcUpdate_nil (a : Word) : crcUpdate a [] = a := rfl

@[simp] theorem crcUpdate_cons (a : Word) (b : Byte) (s : List Byte) :
    crcUpdate a (b :: s) = crcUpdate (crcStep a b) s := rfl

@[simp] theorem crcUpdateTbl_nil (tbl : Vector Word 256) (a : Word) : crcUpdateTbl tbl a [] = a := rfl

@[simp] theorem crcUpdateTbl_cons (tbl : Vector Word 256) (a : Word) (b : Byte) (s : List Byte) :
    crcUpdateTbl tbl a (b :: s) = crcUpdateTbl tbl (crcStepTbl tbl a b) s := rfl

end Sys2Proof.Machine
end

