-- ==== Sys2Proof/Laws/PerInstr.lean ====
section
/-! SUPPORT. Facts about every command as syntax, one lemma per constructor. Family `ZeroField`: bits 31:16
of every command word are zero (`spec/30_encoding.md` R59). -/

namespace Sys2Proof.Laws.ZeroField

/-- The `zero` field of the command word is zero (R59). -/
def Statement (i : Instr) : Prop := zeroField (encode i) = 0

theorem nop : Statement .nop := rfl
theorem sysReset : Statement .sysReset := rfl
theorem crcTinit : Statement .crcTinit := rfl
theorem crcSeed : Statement .crcSeed := rfl
theorem crcByte (imm8 : Byte) : Statement (.crcByte imm8) := by
  revert imm8; unfold Statement; decide
theorem crcBlock : Statement .crcBlock := rfl
theorem dmInit : Statement .dmInit := rfl
theorem dmAddimg (imm8 : Byte) : Statement (.dmAddimg imm8) := by
  revert imm8; unfold Statement; decide
theorem dmAddel : Statement .dmAddel := rfl
theorem pkPrefix : Statement .pkPrefix := rfl
theorem pkTprefix : Statement .pkTprefix := rfl
theorem pkElhdr : Statement .pkElhdr := rfl
theorem pkData : Statement .pkData := rfl
theorem pkSuffix : Statement .pkSuffix := rfl
theorem upPrefix : Statement .upPrefix := rfl
theorem upTprefix : Statement .upTprefix := rfl
theorem upElhdr : Statement .upElhdr := rfl
theorem upData : Statement .upData := rfl
theorem upSuffix : Statement .upSuffix := rfl

end Sys2Proof.Laws.ZeroField
end

