-- ==== Sys2Proof/Machine/Script.lean ====
section
/-! DEFINITION. The host script notation as lists of host actions: `spec/30_encoding.md` R70 to R73. The
pseudo-operations are conveniences of the notation; the block knows nothing of them (R73). -/

namespace Sys2Proof.Machine

/-- `WR reg, v` (R72). -/
def scriptWr (r : Reg) (v : Word) : HostAction := .wr (regNumber r) v

/-- `RD reg` (R72). -/
def scriptRd (r : Reg) : HostAction := .rd (regNumber r)

/-- `CMD mnem` and `CMD mnem #i` (R72). -/
def scriptCmd (i : Instr) : HostAction := .wr (regNumber .cmd) (encode i)

/-- `EXPECT reg == v` (R72). -/
def expectReg (s : State) (r : Reg) (v : Word) : Bool := s.readNumber (regNumber r) == v

/-- `EXPECTMEM a == s` (R72). -/
def expectMem (s : State) (a : Nat) (bs : List Byte) : Bool := s.readBytes a bs.length == bs

/-- `CRC.BUF a, n` (R73). -/
def crcBuf (a n : Word) : List HostAction :=
  [scriptWr .arg0 a, scriptWr .arg1 n, scriptCmd .crcBlock]

/-- `CRC.OF a, n` (R73). -/
def crcOf (a n : Word) : List HostAction := scriptCmd .crcSeed :: crcBuf a n

/-- `CRC.FROM v, a, n` (R73). -/
def crcFrom (v a n : Word) : List HostAction := scriptWr .acc v :: crcBuf a n

/-- `DM.INIT d, v, p` (R73). -/
def docInit (d v p : Word) : List HostAction :=
  [scriptWr .arg0 d, scriptWr .arg1 v, scriptWr .arg2 p, scriptCmd .dmInit]

/-- `DM.INIT.DEFAULT` (R73). -/
def docInitDefault : List HostAction := docInit 0xFFFF 0x0483 0xDF11

/-- `DM.ADDIMG alt, a, n` (R73). -/
def docAddimg (alt : Byte) (a n : Word) : List HostAction :=
  [scriptWr .arg0 a, scriptWr .arg1 n, scriptCmd (.dmAddimg alt)]

/-- `DM.ADDEL addr, size` (R73). -/
def docAddel (addr size : Word) : List HostAction :=
  [scriptWr .arg0 addr, scriptWr .arg1 size, scriptCmd .dmAddel]

/-- `PK.DATA a, n` (R73). -/
def packData (a n : Word) : List HostAction :=
  [scriptWr .arg0 a, scriptWr .arg1 n, scriptCmd .pkData]

/-- `UP.DATA a, n` (R73). -/
def unpackData (a n : Word) : List HostAction :=
  [scriptWr .arg0 a, scriptWr .arg1 n, scriptCmd .upData]

/-- `OUTWIN base, lim` (R73). -/
def outWindow (base lim : Word) : List HostAction :=
  [scriptWr .wbase base, scriptWr .wpos base, scriptWr .wlim lim]

/-- `INWIN base, lim` (R73). -/
def inWindow (base lim : Word) : List HostAction :=
  [scriptWr .rbase base, scriptWr .rpos base, scriptWr .rlim lim]

end Sys2Proof.Machine
end

