-- ==== Sys2Proof/Tests/Slice0.lean ====
section
/-! SUPPORT. Small tests. Expected values come from the spec: the words of `spec/30_encoding.md` R66 and R69,
the table of `spec/40_crc.md` R85, the vectors V1 to V81 of `spec/95_test_vectors.md`. The second half shows,
for every obligation with hypotheses, a state and operands that meet the hypotheses of each clause. -/

namespace Sys2Proof.Machine

/- One proof at a time: many kernel evaluations waiting for each other hold a thread each. -/
set_option Elab.async false

/-! ### Helpers -/

/-- What a test looks at after a command or a step; `none` if there is no next state. -/
def after {α : Type} (r : Result) (f : State → α) : Option α :=
  match r with
  | .next t => some (f t)
  | _ => none

/-- The step is refused for a host access outside MEM. -/
def refusesAccess (r : Result) : Bool :=
  match r with
  | .refused .hostAccessOutsideMem => true
  | _ => false

/-- ERR and ERRINFO. -/
def State.faultPair (s : State) : Byte × Word := (s.err, s.errInfo)

/-- One step on one host action. -/
def act (s : State) (a : HostAction) : Result := step { s with script := [a] }

/-- Hard reset, then CRC.TINIT ("T" of 95, section 2.6). -/
def ready : State := { State.reset with tbl := crcTable, tvalid := true }

/-- `ready` after DM.INIT.DEFAULT ("I" of 95, V17). -/
def inited : State :=
  { ready with
    arg0 := 0xFFFF, arg1 := 0x0483, arg2 := 0xDF11
    pfx := ⟨11, 0, 1, byteArray 5 sigDfuSe⟩
    sfx := ⟨0xFFFF, 0xDF11, 0x0483, 0x011A, 16, 0, byteArray 3 sigUfd⟩ }

/-- `inited` after `DM.ADDIMG 0, 0x40, 2` with the name "ST" (95, V18). -/
def imaged : State :=
  { inited with
    arg0 := 0x40, arg1 := 2, mem := [(0x40, 0x53), (0x41, 0x54)]
    pfx := ⟨282, 1, 1, byteArray 5 sigDfuSe⟩
    tgt := ⟨0, 1, 0, 0, byteArray 6 sigTarget, byteArray 255 [0x53, 0x54]⟩ }

/-- `imaged` after `DM.ADDEL 0x08000000, 260` (95, V19), with an output window at `0x1000`. -/
def elemented : State :=
  { imaged with
    arg0 := 0x08000000, arg1 := 260
    pfx := ⟨550, 1, 1, byteArray 5 sigDfuSe⟩
    tgt := ⟨0, 1, 268, 1, byteArray 6 sigTarget, byteArray 255 [0x53, 0x54]⟩
    el := ⟨0x08000000, 260⟩
    outWin := ⟨0x1000, 0x1000, 0x1400⟩ }

/-- A state with a fault latched (95, V50). -/
def faulted : State := { inited with err := 5, errInfo := 0x100 }

/-- `ready` with these bytes at `a` and an input window over them. -/
def streamAt (a : Word) (bs : List Byte) : State :=
  { ready with
    mem := cellsFrom a.toNat bs
    inWin := ⟨a, a, a + BitVec.ofNat 32 bs.length⟩ }

/-! ### Well-formedness -/

/-- The 8-bit immediate admits every value (R59), so no command term is ill formed: the four corner
immediates are accepted. -/
theorem test_wf_immediates :
    ([.crcByte 0x00, .crcByte 0xFF, .dmAddimg 0x00, .dmAddimg 0xFF] : List Instr).all Instr.wf = true := by
  decide

/-- R41: a MEM read must end inside MEM. -/
theorem test_wf_memRd :
    HostAction.wf 0x4000 (.memRd 0x3FFF 1) = true ∧ HostAction.wf 0x4000 (.memRd 0x3FFF 2) = false := by
  decide

/-- R41: a MEM write must end inside MEM; addresses do not wrap. -/
theorem test_wf_memWr :
    HostAction.wf 0x4000 (.memWr 0x3FFE [1, 2]) = true ∧ HostAction.wf 0x4000 (.memWr 0x3FFE [1, 2, 3]) = false
      ∧ HostAction.wf 0x4000 (.memWr 0xFFFFFFFF [1, 2]) = false := by
  decide

/-- U3: the step refuses an ill-formed access. -/
theorem test_refused_access :
    refusesAccess (act .reset (.memRd 0x3FFF 2)) = true
      ∧ refusesAccess (act .reset (.memWr 0x4000 [0])) = true
      ∧ refusesAccess (act .reset (.memRd 0x3FFF 1)) = false := by
  decide

/-! ### Decoding: words written out from R66 and R69 -/

theorem test_decode_nop : decode 0x00000000 = .ok .nop := by decide
theorem test_decode_sysReset : decode 0x00000001 = .ok .sysReset := by decide
theorem test_decode_crcTinit : decode 0x00000010 = .ok .crcTinit := by decide
theorem test_decode_crcSeed : decode 0x00000011 = .ok .crcSeed := by decide
theorem test_decode_crcByte : decode 0x00003112 = .ok (.crcByte 0x31) := by decide
theorem test_decode_crcByte_max : decode 0x0000FF12 = .ok (.crcByte 0xFF) := by decide
theorem test_decode_crcBlock : decode 0x00000013 = .ok .crcBlock := by decide
theorem test_decode_dmInit : decode 0x00000020 = .ok .dmInit := by decide
theorem test_decode_dmAddimg : decode 0x00000221 = .ok (.dmAddimg 0x02) := by decide
theorem test_decode_dmAddimg_max : decode 0x0000FF21 = .ok (.dmAddimg 0xFF) := by decide
theorem test_decode_dmAddel : decode 0x00000022 = .ok .dmAddel := by decide
theorem test_decode_pkPrefix : decode 0x00000030 = .ok .pkPrefix := by decide
theorem test_decode_pkTprefix : decode 0x00000031 = .ok .pkTprefix := by decide
theorem test_decode_pkElhdr : decode 0x00000032 = .ok .pkElhdr := by decide
theorem test_decode_pkData : decode 0x00000033 = .ok .pkData := by decide
theorem test_decode_pkSuffix : decode 0x00000034 = .ok .pkSuffix := by decide
theorem test_decode_upPrefix : decode 0x00000040 = .ok .upPrefix := by decide
theorem test_decode_upTprefix : decode 0x00000041 = .ok .upTprefix := by decide
theorem test_decode_upElhdr : decode 0x00000042 = .ok .upElhdr := by decide
theorem test_decode_upData : decode 0x00000043 = .ok .upData := by decide
theorem test_decode_upSuffix : decode 0x00000044 = .ok .upSuffix := by decide

/-- The reasons of R62 and R64, in the order of R63. -/
theorem test_decode_illegal :
    decode 0x00000111 = .error .nonzeroImm ∧ decode 0x00010012 = .error .reservedBits
      ∧ decode 0x00000002 = .error .unknownOpcode ∧ decode 0xFFFFFFFF = .error .reservedBits
      ∧ decode 0x00000045 = .error .unknownOpcode := by
  decide

/-- The table numbers a command word from bit 0. -/
theorem test_decodeTableWord :
    decodeTableWord 32 0x3112 = some (.crcByte 0x31) ∧ decodeTableWord 32 0x111 = none := by decide

/-- The word put where the step takes its next command runs as the first command after reset. -/
theorem test_withFetchWord :
    after (step (State.reset.withFetchWord 32 0x02)) State.faultPair = some (9, 2)
      ∧ after (step (State.reset.withFetchWord 32 0x10)) (fun t => t.tvalid) = some true := by decide

/-! ### The CRC unit -/

/-- R85, its listing. -/
theorem test_table_00 : (List.range' 0x00 64).map crcEntry = [
    0x00000000, 0x77073096, 0xEE0E612C, 0x990951BA, 0x076DC419, 0x706AF48F, 0xE963A535, 0x9E6495A3,
    0x0EDB8832, 0x79DCB8A4, 0xE0D5E91E, 0x97D2D988, 0x09B64C2B, 0x7EB17CBD, 0xE7B82D07, 0x90BF1D91,
    0x1DB71064, 0x6AB020F2, 0xF3B97148, 0x84BE41DE, 0x1ADAD47D, 0x6DDDE4EB, 0xF4D4B551, 0x83D385C7,
    0x136C9856, 0x646BA8C0, 0xFD62F97A, 0x8A65C9EC, 0x14015C4F, 0x63066CD9, 0xFA0F3D63, 0x8D080DF5,
    0x3B6E20C8, 0x4C69105E, 0xD56041E4, 0xA2677172, 0x3C03E4D1, 0x4B04D447, 0xD20D85FD, 0xA50AB56B,
    0x35B5A8FA, 0x42B2986C, 0xDBBBC9D6, 0xACBCF940, 0x32D86CE3, 0x45DF5C75, 0xDCD60DCF, 0xABD13D59,
    0x26D930AC, 0x51DE003A, 0xC8D75180, 0xBFD06116, 0x21B4F4B5, 0x56B3C423, 0xCFBA9599, 0xB8BDA50F,
    0x2802B89E, 0x5F058808, 0xC60CD9B2, 0xB10BE924, 0x2F6F7C87, 0x58684C11, 0xC1611DAB, 0xB6662D3D] := by
  decide +kernel

/-- R85, its listing. -/
theorem test_table_40 : (List.range' 0x40 64).map crcEntry = [
    0x76DC4190, 0x01DB7106, 0x98D220BC, 0xEFD5102A, 0x71B18589, 0x06B6B51F, 0x9FBFE4A5, 0xE8B8D433,
    0x7807C9A2, 0x0F00F934, 0x9609A88E, 0xE10E9818, 0x7F6A0DBB, 0x086D3D2D, 0x91646C97, 0xE6635C01,
    0x6B6B51F4, 0x1C6C6162, 0x856530D8, 0xF262004E, 0x6C0695ED, 0x1B01A57B, 0x8208F4C1, 0xF50FC457,
    0x65B0D9C6, 0x12B7E950, 0x8BBEB8EA, 0xFCB9887C, 0x62DD1DDF, 0x15DA2D49, 0x8CD37CF3, 0xFBD44C65,
    0x4DB26158, 0x3AB551CE, 0xA3BC0074, 0xD4BB30E2, 0x4ADFA541, 0x3DD895D7, 0xA4D1C46D, 0xD3D6F4FB,
    0x4369E96A, 0x346ED9FC, 0xAD678846, 0xDA60B8D0, 0x44042D73, 0x33031DE5, 0xAA0A4C5F, 0xDD0D7CC9,
    0x5005713C, 0x270241AA, 0xBE0B1010, 0xC90C2086, 0x5768B525, 0x206F85B3, 0xB966D409, 0xCE61E49F,
    0x5EDEF90E, 0x29D9C998, 0xB0D09822, 0xC7D7A8B4, 0x59B33D17, 0x2EB40D81, 0xB7BD5C3B, 0xC0BA6CAD] := by
  decide +kernel

/-- R85, its listing. -/
theorem test_table_80 : (List.range' 0x80 64).map crcEntry = [
    0xEDB88320, 0x9ABFB3B6, 0x03B6E20C, 0x74B1D29A, 0xEAD54739, 0x9DD277AF, 0x04DB2615, 0x73DC1683,
    0xE3630B12, 0x94643B84, 0x0D6D6A3E, 0x7A6A5AA8, 0xE40ECF0B, 0x9309FF9D, 0x0A00AE27, 0x7D079EB1,
    0xF00F9344, 0x8708A3D2, 0x1E01F268, 0x6906C2FE, 0xF762575D, 0x806567CB, 0x196C3671, 0x6E6B06E7,
    0xFED41B76, 0x89D32BE0, 0x10DA7A5A, 0x67DD4ACC, 0xF9B9DF6F, 0x8EBEEFF9, 0x17B7BE43, 0x60B08ED5,
    0xD6D6A3E8, 0xA1D1937E, 0x38D8C2C4, 0x4FDFF252, 0xD1BB67F1, 0xA6BC5767, 0x3FB506DD, 0x48B2364B,
    0xD80D2BDA, 0xAF0A1B4C, 0x36034AF6, 0x41047A60, 0xDF60EFC3, 0xA867DF55, 0x316E8EEF, 0x4669BE79,
    0xCB61B38C, 0xBC66831A, 0x256FD2A0, 0x5268E236, 0xCC0C7795, 0xBB0B4703, 0x220216B9, 0x5505262F,
    0xC5BA3BBE, 0xB2BD0B28, 0x2BB45A92, 0x5CB36A04, 0xC2D7FFA7, 0xB5D0CF31, 0x2CD99E8B, 0x5BDEAE1D] := by
  decide +kernel

/-- R85, its listing. -/
theorem test_table_C0 : (List.range' 0xC0 64).map crcEntry = [
    0x9B64C2B0, 0xEC63F226, 0x756AA39C, 0x026D930A, 0x9C0906A9, 0xEB0E363F, 0x72076785, 0x05005713,
    0x95BF4A82, 0xE2B87A14, 0x7BB12BAE, 0x0CB61B38, 0x92D28E9B, 0xE5D5BE0D, 0x7CDCEFB7, 0x0BDBDF21,
    0x86D3D2D4, 0xF1D4E242, 0x68DDB3F8, 0x1FDA836E, 0x81BE16CD, 0xF6B9265B, 0x6FB077E1, 0x18B74777,
    0x88085AE6, 0xFF0F6A70, 0x66063BCA, 0x11010B5C, 0x8F659EFF, 0xF862AE69, 0x616BFFD3, 0x166CCF45,
    0xA00AE278, 0xD70DD2EE, 0x4E048354, 0x3903B3C2, 0xA7672661, 0xD06016F7, 0x4969474D, 0x3E6E77DB,
    0xAED16A4A, 0xD9D65ADC, 0x40DF0B66, 0x37D83BF0, 0xA9BCAE53, 0xDEBB9EC5, 0x47B2CF7F, 0x30B5FFE9,
    0xBDBDF21C, 0xCABAC28A, 0x53B39330, 0x24B4A3A6, 0xBAD03605, 0xCDD70693, 0x54DE5729, 0x23D967BF,
    0xB3667A2E, 0xC4614AB8, 0x5D681B02, 0x2A6F2B94, 0xB40BBE37, 0xC30C8EA1, 0x5A05DF1B, 0x2D02EF8D] := by
  decide +kernel

/-- V6: the DfuSe CRC of "123456789". -/
theorem test_crc_v6 :
    crcUpdate crcSeed [0x31, 0x32, 0x33, 0x34, 0x35, 0x36, 0x37, 0x38, 0x39] = 0x340BC6D9 := by decide +kernel

/-- V5, V9: "abc" and four `FF` bytes. -/
theorem test_crc_v5_v9 :
    crcUpdate crcSeed [0x61, 0x62, 0x63] = 0xCADBBE3D
      ∧ crcUpdate crcSeed [0xFF, 0xFF, 0xFF, 0xFF] = 0x00000000 := by decide +kernel

/-! ### One step of each command -/

/-- V47. -/
theorem test_nop : after (act imaged (.wr 0x00 0x00000000)) State.faultPair = some (0, 0)
    ∧ after (exec .nop imaged) (fun t => (t.pfx, t.arg0, t.acc, t.tvalid)) =
      some (imaged.pfx, 0x40, 0xFFFFFFFF, true) := by decide +kernel

/-- V49: the registers go to their reset values, the table and MEM stay. -/
theorem test_sysReset :
    after (exec .sysReset { imaged with arg0 := 0x1234 })
      (fun t => (t.arg0, t.acc, t.pfx.size, t.outWin.pos, t.tvalid, t.readByte 0x41))
      = some (0, 0xFFFFFFFF, 0, 0, true, 0x54) := by decide +kernel

/-- V50: SYS.RESET runs while a fault is latched. -/
theorem test_sysReset_faulted :
    after (act faulted (.wr 0x00 0x00000001)) State.faultPair = some (0, 0) := by decide +kernel

/-- R91's example: STATUS goes from 0 to 2. -/
theorem test_crcTinit :
    State.reset.readNumber 0x01 = 0x00000000
      ∧ after (exec .crcTinit .reset) (fun t => t.readNumber 0x01) = some 0x00000002 := by decide +kernel

/-- V15: entries that CRC.TINIT writes. -/
theorem test_crcTinit_table :
    after (exec .crcTinit .reset) (fun t => (t.tbl[0x01], t.tbl[0x80], t.tbl[0xD3], t.tbl[0xFF]))
      = some (0x77073096, 0xEDB88320, 0x1FDA836E, 0x2D02EF8D) := by decide +kernel

/-- R92's example, and V63: no table is needed. -/
theorem test_crcSeed :
    after (exec .crcSeed { State.reset with acc := 0x12345678 }) (fun t => (t.acc, t.err))
      = some (0xFFFFFFFF, 0) := by decide +kernel

/-- V12. -/
theorem test_crcByte :
    after (exec (.crcByte 0xAB) { ready with acc := 0x12345678 }) (fun t => t.acc)
      = some 0x1FC8B738 := by decide +kernel

/-- V64. -/
theorem test_crcByte_noTable :
    after (exec (.crcByte 0) .reset) (fun t => (t.faultPair, t.acc)) = some ((12, 0), 0xFFFFFFFF) := by
  decide +kernel

/-- V13, its second piece: "56789" at `0x104`. -/
theorem test_crcBlock :
    after (exec .crcBlock
        { ready with acc := 0x641C1F5C, arg0 := 0x104, arg1 := 5
                     mem := cellsFrom 0x104 [0x35, 0x36, 0x37, 0x38, 0x39] })
      (fun t => t.acc) = some 0x340BC6D9 := by decide +kernel

/-- V66: no address wrap. -/
theorem test_crcBlock_range :
    after (exec .crcBlock { ready with arg0 := 0xFFFFFFFF, arg1 := 2 }) State.faultPair
      = some (10, 0xFFFFFFFF) := by decide +kernel

/-- V17. -/
theorem test_dmInit :
    after (exec .dmInit { State.reset with arg0 := 0xFFFF, arg1 := 0x0483, arg2 := 0xDF11 })
      (fun t => (t.pfx, t.sfx, t.el, t.arg2))
      = some (⟨11, 0, 1, byteArray 5 [0x44, 0x66, 0x75, 0x53, 0x65]⟩,
          ⟨0xFFFF, 0xDF11, 0x0483, 0x011A, 16, 0, byteArray 3 [0x55, 0x46, 0x44]⟩, ⟨0, 0⟩, 0xDF11) := by
  decide +kernel

/-- V53. -/
theorem test_dmInit_vendor :
    after (exec .dmInit { ready with arg0 := 0xFFFF, arg1 := 0x10000, arg2 := 0xDF11 }) State.faultPair
      = some (11, 5) := by decide +kernel

/-- V18. -/
theorem test_dmAddimg :
    after (exec (.dmAddimg 0)
        { inited with arg0 := 0x40, arg1 := 2, mem := [(0x40, 0x53), (0x41, 0x54)] })
      (fun t => (t.pfx.size, t.pfx.tcnt, t.tgt.named, t.tgt.name[0], t.tgt.name[1], t.tgt.name[2]))
      = some (282, 1, 1, 0x53, 0x54, 0) := by decide +kernel

/-- V58: the name length is checked first. -/
theorem test_dmAddimg_long :
    after (exec (.dmAddimg 0)
        { inited with arg0 := 0x3FFF, arg1 := 256, pfx := { inited.pfx with tcnt := 255 } })
      State.faultPair = some (5, 0x100) := by decide +kernel

/-- V19. -/
theorem test_dmAddel :
    after (exec .dmAddel { imaged with arg0 := 0x08000000, arg1 := 260 })
      (fun t => (t.el.addr, t.el.size, t.tgt.size, t.tgt.nelem, t.pfx.size))
      = some (0x08000000, 260, 268, 1, 550) := by decide +kernel

/-- V60 and V61 (PFX_SIZE = 282 as after "G"). -/
theorem test_dmAddel_overflow :
    after (exec .dmAddel { imaged with arg0 := 0, arg1 := 0xFFFFFFF8 }) State.faultPair = some (11, 0x32)
      ∧ after (exec .dmAddel { imaged with arg0 := 0, arg1 := 0xFFFFFFF7 }) State.faultPair
        = some (11, 0x20) := by decide +kernel

/-- V24. -/
theorem test_pkPrefix :
    after (exec .pkPrefix elemented) (fun t => (t.readBytes 0x1000 11, t.outWin.pos))
      = some ([0x44, 0x66, 0x75, 0x53, 0x65, 0x01, 0x26, 0x02, 0x00, 0x00, 0x01], 0x100B) := by
  decide +kernel

/-- V72. -/
theorem test_pkPrefix_range :
    after (exec .pkPrefix { inited with outWin := ⟨0x3FF8, 0x3FF8, 0x5000⟩ })
      (fun t => (t.faultPair, t.outWin.pos)) = some ((10, 0x3FF8), 0x3FF8) := by decide +kernel

/-- V25, its first ten and its last eight bytes. -/
theorem test_pkTprefix :
    after (exec .pkTprefix { elemented with outWin := ⟨0x1000, 0x100B, 0x1400⟩ })
      (fun t => (t.readBytes 0x100B 10, t.readBytes 0x1112 8, t.outWin.pos))
      = some ([0x54, 0x61, 0x72, 0x67, 0x65, 0x74, 0x00, 0x01, 0x53, 0x54],
          [0x0C, 0x01, 0x00, 0x00, 0x01, 0x00, 0x00, 0x00], 0x111A) := by decide +kernel

/-- V26. -/
theorem test_pkElhdr :
    after (exec .pkElhdr { elemented with outWin := ⟨0x1000, 0x111A, 0x1400⟩ })
      (fun t => (t.readBytes 0x111A 8, t.outWin.pos))
      = some ([0x00, 0x00, 0x00, 0x08, 0x04, 0x01, 0x00, 0x00], 0x1122) := by decide +kernel

/-- V74: WPOS above WLIM. -/
theorem test_pkElhdr_short :
    after (exec .pkElhdr { inited with outWin := ⟨0x100, 0x120, 0x110⟩ }) State.faultPair
      = some (7, 0x120) := by decide +kernel

/-- V29: source and destination overlap. -/
theorem test_pkData_overlap :
    after (exec .pkData
        { ready with mem := cellsFrom 0x100 [1, 2, 3, 4, 5, 6, 7, 8, 0, 0], outWin := ⟨0x102, 0x102, 0x200⟩
                     arg0 := 0x100, arg1 := 6 })
      (fun t => (t.readBytes 0x100 10, t.outWin.pos))
      = some ([1, 2, 1, 2, 3, 4, 5, 6, 0, 0], 0x108) := by decide +kernel

/-- V76: the source check comes first. -/
theorem test_pkData_source :
    after (exec .pkData { ready with outWin := ⟨0x100, 0x100, 0x101⟩, arg0 := 0x3FFF, arg1 := 2 })
      State.faultPair = some (10, 0x3FFF) := by decide +kernel

/-- V33: a suffix alone, in exactly 16 bytes of room. -/
theorem test_pkSuffix :
    after (exec .pkSuffix { inited with outWin := ⟨0x100, 0x100, 0x110⟩ })
      (fun t => (t.readBytes 0x100 16, t.acc, t.sfx.crc, t.outWin.pos))
      = some ([0xFF, 0xFF, 0x11, 0xDF, 0x83, 0x04, 0x1A, 0x01, 0x55, 0x46, 0x44, 0x10, 0x81, 0x85, 0x6A,
          0x1C], 0x1C6A8581, 0x1C6A8581, 0x110) := by decide +kernel

/-- V81: nine bytes of room. -/
theorem test_pkSuffix_short :
    after (exec .pkSuffix { inited with outWin := ⟨0x1000, 0x100B, 0x1014⟩ })
      (fun t => (t.faultPair, t.sfx.crc, t.acc)) = some ((7, 0x100B), 0, 0xFFFFFFFF) := by decide +kernel

/-- V43: no validation. -/
theorem test_upPrefix :
    after (exec .upPrefix
        (streamAt 0x100 [0xF0, 0xF1, 0xF2, 0xF3, 0xF4, 0xF5, 0xF6, 0xF7, 0xF8, 0xF9, 0xFA]))
      (fun t => (t.pfx, t.inWin.pos))
      = some (⟨0xF9F8F7F6, 0xFA, 0xF5, byteArray 5 [0xF0, 0xF1, 0xF2, 0xF3, 0xF4]⟩, 0x10B) := by
  decide +kernel

/-- V71. -/
theorem test_upPrefix_short :
    after (exec .upPrefix ready) State.faultPair = some (8, 0) := by decide +kernel

/-- V38. -/
theorem test_upTprefix :
    after (exec .upTprefix
        (streamAt 0x100B ([0x54, 0x61, 0x72, 0x67, 0x65, 0x74, 0x00, 0x01, 0x53, 0x54]
          ++ List.replicate 253 0 ++ [0x0C, 0x01, 0x00, 0x00, 0x01, 0x00, 0x00, 0x00])))
      (fun t => (t.tgt.alt, t.tgt.named, t.tgt.name[1], t.tgt.name[254], t.tgt.size, t.tgt.nelem,
        t.inWin.pos))
      = some (0, 1, 0x54, 0, 268, 1, 0x111A) := by decide +kernel

/-- V44, its first command. -/
theorem test_upElhdr :
    after (exec .upElhdr (streamAt 0x100 [0x00, 0x00, 0x00, 0x08, 0x10, 0x00, 0x00, 0x00, 9, 9, 9, 9]))
      (fun t => (t.el.addr, t.el.size, t.inWin.pos)) = some (0x08000000, 16, 0x108) := by decide +kernel

/-- V44, its second command: the payload is truncated. -/
theorem test_upData_short :
    after (exec .upData
        { ready with inWin := ⟨0x100, 0x108, 0x10C⟩, arg0 := 0x300, arg1 := 16 })
      (fun t => (t.faultPair, t.inWin.pos)) = some ((8, 0x108), 0x108) := by decide +kernel

/-- R125: four bytes copied down by two, source and destination overlapping. -/
theorem test_upData :
    after (exec .upData { streamAt 0x102 [1, 2, 3, 4] with arg0 := 0x100, arg1 := 4 })
      (fun t => (t.readBytes 0x100 6, t.inWin.pos)) = some ([1, 2, 3, 4, 3, 4], 0x106) := by decide +kernel

/-- V33 read back: the stored and the recomputed CRC agree. -/
theorem test_upSuffix :
    after (exec .upSuffix
        (streamAt 0x100 [0xFF, 0xFF, 0x11, 0xDF, 0x83, 0x04, 0x1A, 0x01, 0x55, 0x46, 0x44, 0x10, 0x81,
          0x85, 0x6A, 0x1C]))
      (fun t => (t.sfx, t.acc, t.inWin.pos, t.err))
      = some (⟨0xFFFF, 0xDF11, 0x0483, 0x011A, 16, 0x1C6A8581, byteArray 3 [0x55, 0x46, 0x44]⟩, 0x1C6A8581,
          0x110, 0) := by decide +kernel

/-- V79: RBASE above RPOS. -/
theorem test_upSuffix_base :
    after (exec .upSuffix { ready with inWin := ⟨0x200, 0x100, 0x300⟩ }) State.faultPair
      = some (10, 0x200) := by decide +kernel

/-! ### Host accesses, faults and reset -/

/-- V45: narrow and read-only registers. -/
theorem test_registers :
    (ready.writeNumber 0x21 0x1FF).readNumber 0x21 = 0x000000FF
      ∧ (ready.writeNumber 0x50 0x12345678).readNumber 0x50 = 0x00005678
      ∧ (ready.writeNumber 0x1FE 0x141).readNumber 0x1FE = 0x00000041
      ∧ (ready.writeNumber 0x02 5).readNumber 0x02 = 0
      ∧ (ready.writeNumber 0x01 0xFF).readNumber 0x01 = 0x00000002 := by decide +kernel

/-- R32: a number reads the register it names, not its neighbour. -/
theorem test_register_numbers :
    (faulted.readNumber 0x02, faulted.readNumber 0x03) = (5, 0x100)
      ∧ (inited.readNumber 0x04, inited.readNumber 0x05, inited.readNumber 0x06) = (0xFFFF, 0x0483, 0xDF11)
      ∧ (inited.readNumber 0x50, inited.readNumber 0x51, inited.readNumber 0x52) = (0xFFFF, 0xDF11, 0x0483) := by
  decide +kernel

/-- V46: unmapped numbers and CMD. -/
theorem test_unmapped :
    after (act ready (.wr 0x07 0x55)) (fun t => t.readNumber 0x07) = some 0
      ∧ after (act ready (.wr 0x1FF 1)) (fun t => (t.readNumber 0x1FF, t.err)) = some (0, 0)
      ∧ after (act ready (.rd 0x00)) (fun t => t.reply) = some (.word 0) := by decide +kernel

/-- V48: illegal words. -/
theorem test_illegal :
    after (act ready (.wr 0x00 0x00000111)) State.faultPair = some (9, 0x00000111)
      ∧ after (act ready (.wr 0x00 0x00010012)) State.faultPair = some (9, 0x00010012)
      ∧ after (act ready (.wr 0x00 0x00000101)) State.faultPair = some (9, 0x00000101)
      ∧ after (act ready (.wr 0x00 0xDEADBEEF)) State.faultPair = some (9, 0xDEADBEEF) := by decide +kernel

/-- V50: what the faulted state ignores and what still works. -/
theorem test_faulted :
    after (act faulted (.wr 0x00 0x00000030)) State.faultPair = some (5, 0x100)
      ∧ after (act faulted (.wr 0x00 0xDEADBEEF)) State.faultPair = some (5, 0x100)
      ∧ after (act faulted (.wr 0x00 0x00000101)) State.faultPair = some (5, 0x100)
      ∧ after (act faulted (.wr 0x04 0x1234)) (fun t => t.readNumber 0x04) = some 0x1234 := by
  decide +kernel

/-- R41: bytes written by the host are read back, the last byte of MEM included. -/
theorem test_host_memory :
    after (act ready (.memWr 0x3FFE [0xAA, 0xBB])) (fun t => (t.mem, t.readBytes 0x3FFE 2))
      = some ([(0x3FFE, 0xAA), (0x3FFF, 0xBB)], [0xAA, 0xBB]) := by decide +kernel

/-- R38: the reset input clears TVALID and the registers. -/
theorem test_hardReset :
    after (act elemented .hardReset) (fun t => (t.tvalid, t.pfx.size, t.acc, t.outWin.lim))
      = some (false, 0, 0xFFFFFFFF, 0) := by decide +kernel

/-- A host script of R72 and R73 is a list of actions, and its words are those of P2. -/
theorem test_script :
    docInitDefault = [.wr 0x04 0xFFFF, .wr 0x05 0x0483, .wr 0x06 0xDF11, .wr 0x00 0x00000020]
      ∧ docAddimg 1 0 0 = [.wr 0x04 0, .wr 0x05 0, .wr 0x00 0x00000121]
      ∧ inWindow 0x1000 0x1236 = [.wr 0x14 0x1000, .wr 0x15 0x1000, .wr 0x16 0x1236]
      ∧ crcOf 0x100 9 = [.wr 0x00 0x11, .wr 0x04 0x100, .wr 0x05 9, .wr 0x00 0x13] := by decide +kernel

/-! ### Witnesses: the hypotheses of each obligation hold together, at boundary values -/

/-- A state whose next host action is a write of this word to CMD. -/
def cmdNext (s : State) (w : Word) : State := { s with script := [.wr 0x00 w] }

/-- `ready` with these ARG registers. -/
def withArgs (s : State) (a b c : Word) : State := { s with arg0 := a, arg1 := b, arg2 := c }

theorem ready_tableBuilt : ready.tableBuilt := ⟨rfl, rfl⟩

theorem inited_tableBuilt : inited.tableBuilt := ⟨rfl, rfl⟩

theorem witness_LegalWordsAreTheTableRows :
    decode 0x0000FF12 = .ok (.crcByte 0xFF)
      ∧ (0x0000FF12 : Word) &&& (tableRow (.crcByte 0x00)).mask = (tableRow (.crcByte 0x00)).pattern
      ∧ (0x0000FF12 : Word) &&& (tableRow (.crcByte 0xFF)).mask = (tableRow (.crcByte 0xFF)).pattern
      ∧ decode 0x0000FF21 = .ok (.dmAddimg 0xFF) := by decide

theorem witness_LegalWordsAreTheTableRows_none (i : Instr) :
    (0x00000111 : Word) &&& (tableRow i).mask ≠ (tableRow i).pattern := by
  cases i <;> simp [tableRow, rowN, rowI]

/-- Each way of R62 and R64 at the ends of its range. -/
theorem witness_IllegalWordsRaiseIllegalCmd :
    ([0x00010012, 0xFFFF0000, 0x02, 0x0F, 0x14, 0x1F, 0x23, 0x2F, 0x35, 0x3F, 0x45, 0xFF, 0x0100, 0xFF44]
        : List Word).all (fun w =>
      let op := (w.extractLsb' 0 8).toNat
      decide ((cmdNext ready w).script = .wr 0x00 w :: [] ∧ (cmdNext ready w).err = 0
        ∧ (w.extractLsb' 16 16 ≠ 0
          ∨ (0x02 ≤ op ∧ op ≤ 0x0F) ∨ (0x14 ≤ op ∧ op ≤ 0x1F) ∨ (0x23 ≤ op ∧ op ≤ 0x2F)
          ∨ (0x35 ≤ op ∧ op ≤ 0x3F) ∨ 0x45 ≤ op
          ∨ (w.extractLsb' 8 8 ≠ 0 ∧ op ≠ 0x12 ∧ op ≠ 0x21)))) = true := by decide +kernel

theorem witness_StepRunsTheDecodedCommand :
    (cmdNext ready 0x3112).script = .wr 0x00 0x3112 :: [] ∧ decode 0x3112 = .ok (.crcByte 0x31)
      ∧ (Instr.crcByte 0x31).wf = true := by decide

theorem witness_LatchedFaultBlocksCommands :
    ([0x30, 0x101, 0xDEADBEEF] : List Word).all (fun w =>
      decide ((cmdNext faulted w).script = .wr 0x00 w :: [] ∧ (cmdNext faulted w).err ≠ 0
        ∧ w ≠ 0x00000001)) = true := by decide +kernel

/-- Both sides of the stop: one byte past the end of MEM. -/
theorem witness_OnlyForeignMemAccessStops :
    ready.memBytes < (0x3FFF : Word).toNat + 2 ∧ ready.memBytes < (0x4000 : Word).toNat + [(0 : Byte)].length
      ∧ ¬ ready.memBytes < (0x3FFF : Word).toNat + 1 := by decide

theorem witness_NoActionChangesNothing : State.reset.script = [] := rfl

/-- The numbers beside each range of the map are unmapped, and the last number is. -/
theorem witness_UnmappedNumbersAreInert :
    ([0x07, 0x09, 0x0F, 0x13, 0x17, 0x1F, 0x23, 0x27, 0x2D, 0x2F, 0x34, 0x37, 0x3E, 0x42, 0x4F, 0x56, 0x57,
      0x5B, 0xFF, 0x1FF, 0xFFF] : List RegNum).all (fun n => decide (¬ mappedNumber n.toNat)) = true
      ∧ State.script { ready with script := [.rd 0xFFF] } = .rd 0xFFF :: []
      ∧ State.script { ready with script := [.wr 0x07 0x55] } = .wr 0x07 0x55 :: [] := by decide +kernel

theorem witness_RegisterAccess :
    regAt 0x1FE = some (.tgtName 254) ∧ regAccess (.tgtName 254) = .readWrite
      ∧ State.script { ready with script := [.rd 0x1FE] } = .rd 0x1FE :: []
      ∧ State.script { ready with script := [.wr 0x1FE 0x141] } = .wr 0x1FE 0x141 :: []
      ∧ regAt 0x01 = some .status ∧ regAccess .status = .readOnly
      ∧ regAt 0x03 = some .errInfo ∧ regAccess .errInfo = .readOnly
      ∧ State.script { ready with script := [.wr 0x03 0x55] } = .wr 0x03 0x55 :: [] := by decide +kernel

theorem witness_NoTwoRegistersAlias :
    regAt 0x100 = some (.tgtName 0) ∧ Reg.tgtName 0 ≠ .cmd ∧ Reg.tgtName 1 ≠ .tgtName 0
      ∧ ∃ t, act ready (.wr 0x100 0x41) = .next t :=
  ⟨by decide, by decide, by decide, _, rfl⟩

theorem witness_StatusIsAView :
    2 ≤ 31 ∧ (faulted.readNumber 0x01).getLsbD 2 = false ∧ faulted.err ≠ 0 := by decide

/-- The last byte of MEM, and an empty access at its end. -/
theorem witness_HostMemoryAccess :
    State.script { ready with script := [.memWr 0x3FFF [0xAA]] } = .memWr 0x3FFF [0xAA] :: []
      ∧ (0x3FFF : Word).toNat + [(0xAA : Byte)].length ≤ ready.memBytes
      ∧ State.script { ready with script := [.memRd 0x3FFF 1] } = .memRd 0x3FFF 1 :: []
      ∧ (0x3FFF : Word).toNat + 1 ≤ ready.memBytes ∧ (0x4000 : Word).toNat + 0 ≤ ready.memBytes := by decide

theorem witness_ResetValues :
    State.script { imaged with script := [.hardReset] } = .hardReset :: [] := rfl

theorem witness_SoftResetEffect :
    (cmdNext faulted 0x00000001).script = .wr 0x00 0x00000001 :: []
      ∧ (cmdNext ready 0x00000101).script = .wr 0x00 0x00000101 :: [] ∧ (cmdNext ready 0x00000101).err = 0
      ∧ (cmdNext faulted 0x00000101).script = .wr 0x00 0x00000101 :: []
      ∧ (cmdNext faulted 0x00000101).err ≠ 0 := by decide

/-- A state with a table, a byte of MEM and a command to come keeps the invariant's premises. -/
theorem witness_StepKeepsInvariant :
    State.Inv (cmdNext imaged 0x00000022) ∧ ∃ t, step (cmdNext imaged 0x00000022) = .next t :=
  ⟨⟨by decide, by decide, by decide, by decide, fun _ => rfl, by decide, fun _ => rfl⟩, _, rfl⟩

theorem witness_CommandsKeepWindowsOrdered :
    (∃ t, exec .pkPrefix elemented = .next t) ∧ elemented.outWin.ordered elemented.memBytes
      ∧ elemented.inWin.ordered elemented.memBytes :=
  ⟨⟨_, rfl⟩, by decide, by decide⟩

theorem witness_CommandsWriteOnlyTheirState :
    (∃ t, exec .upElhdr imaged = .next t) ∧ Instr.upElhdr ≠ .crcTinit ∧ Instr.upElhdr ≠ .sysReset
      ∧ writesMem .upElhdr = false ∧ movesOut .upElhdr = false ∧ movesIn .pkElhdr = false
      ∧ writesAcc .upElhdr = false ∧ writesPfx .upElhdr = false ∧ writesTgt .upElhdr = false
      ∧ writesEl .pkElhdr = false ∧ writesSfx .upElhdr = false :=
  ⟨⟨_, rfl⟩, by decide⟩

/-- Two checks hold and the first is taken (V58); no check holds; no command. -/
theorem witness_FaultOrderAndContext :
    firstFault (.dmAddimg 0) { withArgs inited 0x3FFF 256 0 with pfx := { inited.pfx with tcnt := 255 } }
        = some ⟨.nameTooLong, 256⟩
      ∧ inited.err = 0 ∧ firstFault .nop inited = none
      ∧ (cmdNext inited 0x111).script = .wr 0x00 0x111 :: [] ∧ decode 0x111 = .error .nonzeroImm := by
  decide +kernel

theorem witness_FaultsArePrecise :
    State.reset.err = 0
      ∧ ∃ t, exec .pkSuffix .reset = .next t ∧ t.err ≠ 0 :=
  ⟨rfl, _, rfl, by decide⟩

theorem witness_FaultCodesAndRaisers :
    (∃ t, exec .upPrefix ready = .next t ∧ t.err ≠ 0) ∧ ready.err = 0
      ∧ (cmdNext faulted 0x30).err ∈ liveCodes ∧ ∃ t, step (cmdNext faulted 0x30) = .next t :=
  ⟨⟨_, rfl, by decide⟩, rfl, by decide, _, rfl⟩

theorem witness_OnlyResetLeavesTheFaultedState :
    (cmdNext faulted 1).err ≠ 0 ∧ (∃ t, step (cmdNext faulted 1) = .next t ∧ t.err ≠ (cmdNext faulted 1).err)
      ∧ (cmdNext faulted 1).script = .wr 0x00 0x00000001 :: []
      ∧ State.script { faulted with script := [.hardReset] } = .hardReset :: [] :=
  ⟨by decide, ⟨_, rfl, by decide⟩, rfl, rfl⟩

theorem witness_LittleEndianInverses :
    ([0x34, 0x12] : List Byte).length = 2 ∧ ([0x78, 0x56, 0x34, 0x12] : List Byte).length = 4 := by decide

theorem witness_TableStepIsBitSerialStep (i : Fin 256) :
    crcTable[i] = crcStep 0 (BitVec.ofNat 8 i) := crcTable_getElem i i.2

theorem witness_SingleByteChangeChangesCrc : (0x0A : Byte) ≠ 0x0B := by decide

theorem witness_CrcTinitBuildsTheTable : State.reset.err = 0 ∧ faulted.err ≠ 0 := by decide

theorem witness_CrcSeedLoadsTheSeed : State.reset.err = 0 := rfl

theorem witness_CrcByteUpdatesAcc :
    (ready.err = 0 ∧ ready.tableBuilt) ∧ State.reset.err = 0 ∧ State.reset.tvalid = false :=
  ⟨⟨rfl, ready_tableBuilt⟩, rfl, rfl⟩

/-- The last byte of MEM (V68); no byte, anywhere (V69); no table (V65); one byte past the end (V67). -/
theorem witness_CrcBlockUpdatesAcc :
    (ready.err = 0 ∧ ready.tableBuilt ∧ (0x3FFF : Word).toNat + (1 : Word).toNat ≤ ready.memBytes)
      ∧ (withArgs ready 0xFFFFFFFF 0 0).arg1.toNat = 0 ∧ State.reset.tvalid = false
      ∧ ready.tvalid = true ∧ 0 < (2 : Word).toNat
      ∧ (withArgs ready 0x3FFF 2 0).memBytes
        < (withArgs ready 0x3FFF 2 0).arg0.toNat + (withArgs ready 0x3FFF 2 0).arg1.toNat :=
  ⟨⟨rfl, ready_tableBuilt, by decide⟩, by decide⟩

theorem witness_ZeroLengthTouchesNothing :
    (withArgs ready 0xFFFFFFFF 0 0).err = 0 ∧ (withArgs ready 0xFFFFFFFF 0 0).arg1 = 0
      ∧ (withArgs ready 0xFFFFFFFF 0 0).tvalid = true := by decide

/-- The largest identifiers, and each identifier one too large (V53, V54). -/
theorem witness_DmInitStartsAnEmptyDocument :
    ready.err = 0 ∧ (0xFFFF : Word).toNat ≤ 0xFFFF ∧ 0xFFFF < (withArgs ready 0x10000 0 0).arg0.toNat
      ∧ 0xFFFF < (withArgs ready 0xFFFF 0x10000 0).arg1.toNat
      ∧ 0xFFFF < (withArgs ready 0xFFFF 0xFFFF 0x10000).arg2.toNat := by decide

/-- V21 at the end of MEM with the largest count and size; V22; V52; V55; V56; V57. -/
theorem witness_DmAddimgStartsATarget :
    (let s := { withArgs inited 0x3F01 255 0 with pfx := { inited.pfx with tcnt := 254, size := 0xFFFFFEF0 } }
     s.err = 0 ∧ s.arg1.toNat ≤ 255 ∧ s.pfx.tcnt ≠ 255 ∧ s.pfx.size.toNat + 271 ≤ 0xFFFFFFFF
      ∧ s.arg0.toNat + s.arg1.toNat ≤ s.memBytes)
    ∧ (let s := withArgs inited 0xFFFFFFFF 0 0
       s.err = 0 ∧ s.arg1.toNat = 0 ∧ s.pfx.tcnt ≠ 255 ∧ s.pfx.size.toNat + 271 ≤ 0xFFFFFFFF)
    ∧ (withArgs inited 0x40 256 0).err = 0 ∧ 255 < (withArgs inited 0x40 256 0).arg1.toNat
    ∧ (let s := { withArgs inited 0 0 0 with pfx := { inited.pfx with tcnt := 255 } }
       s.err = 0 ∧ s.arg1.toNat ≤ 255 ∧ s.pfx.tcnt = 255)
    ∧ (let s := { withArgs inited 0 0 0 with pfx := { inited.pfx with size := 0xFFFFFEF1 } }
       s.err = 0 ∧ s.arg1.toNat ≤ 255 ∧ s.pfx.tcnt ≠ 255 ∧ 0xFFFFFFFF < s.pfx.size.toNat + 271)
    ∧ (let s := withArgs inited 0x3FFF 2 0
       s.err = 0 ∧ s.arg1.toNat ≤ 255 ∧ s.pfx.tcnt ≠ 255 ∧ s.pfx.size.toNat + 271 ≤ 0xFFFFFFFF
        ∧ 0 < s.arg1.toNat ∧ s.memBytes < s.arg0.toNat + s.arg1.toNat) := by decide

/-- V23's largest element with room for one more; V59; V60; V61; V62. -/
theorem witness_DmAddelAddsAnElement :
    (let s := { withArgs imaged 0 0xFFFFFEDD 0 with tgt := { imaged.tgt with nelem := 0xFFFFFFFE } }
     s.err = 0 ∧ s.pfx.tcnt ≠ 0 ∧ s.tgt.size.toNat + s.arg1.toNat + 8 ≤ 0xFFFFFFFF
      ∧ s.pfx.size.toNat + s.arg1.toNat + 8 ≤ 0xFFFFFFFF ∧ s.tgt.nelem ≠ 0xFFFFFFFF)
    ∧ (inited.err = 0 ∧ inited.pfx.tcnt = 0)
    ∧ (let s := withArgs imaged 0 0xFFFFFFF8 0
       s.err = 0 ∧ s.pfx.tcnt ≠ 0 ∧ 0xFFFFFFFF < s.tgt.size.toNat + s.arg1.toNat + 8)
    ∧ (let s := withArgs imaged 0 0xFFFFFEDE 0
       s.err = 0 ∧ s.pfx.tcnt ≠ 0 ∧ s.tgt.size.toNat + s.arg1.toNat + 8 ≤ 0xFFFFFFFF
        ∧ 0xFFFFFFFF < s.pfx.size.toNat + s.arg1.toNat + 8)
    ∧ (let s := { withArgs imaged 0 0 0 with tgt := { imaged.tgt with nelem := 0xFFFFFFFF } }
       s.err = 0 ∧ s.pfx.tcnt ≠ 0 ∧ s.tgt.size.toNat + s.arg1.toNat + 8 ≤ 0xFFFFFFFF
        ∧ s.pfx.size.toNat + s.arg1.toNat + 8 ≤ 0xFFFFFFFF ∧ s.tgt.nelem = 0xFFFFFFFF) := by decide

/-- A document with an unnamed image and an element. -/
theorem witness_SizesFollowTheClosedForm : ∃ s, DocRun [.element 0, .image] s := by
  have h0 : DocRun [] _ := DocRun.init (s := withArgs ready 0 0 0) rfl rfl rfl
  have h1 : DocRun [.image] _ := DocRun.image 1 h0 rfl rfl
  have h2 : DocRun [.element 0, .image] _ := DocRun.element h1 rfl rfl
  exact ⟨_, h2⟩

/-- Exactly enough room below WLIM and inside MEM (V35), one byte too little, one byte past MEM. -/
def appendCorners (n : Nat) (s : State) : Bool :=
  let top : Word := BitVec.ofNat 32 (0x4000 - n)
  let fits : State := { s with outWin := ⟨0, top, 0x4000⟩ }
  let short : State := { s with outWin := ⟨0, top, 0x3FFF⟩ }
  let past : State := { s with outWin := ⟨0, top + 1, 0x4001⟩ }
  decide (s.err = 0
    ∧ (fits.outWin.pos.toNat + n ≤ fits.outWin.lim.toNat ∧ fits.outWin.pos.toNat + n ≤ fits.memBytes)
    ∧ (0 < n ∧ short.outWin.lim.toNat < short.outWin.pos.toNat + n)
    ∧ (0 < n ∧ past.outWin.pos.toNat + n ≤ past.outWin.lim.toNat
        ∧ past.memBytes < past.outWin.pos.toNat + n))

theorem witness_PkPrefixAppends : appendCorners 11 inited = true := by decide +kernel

theorem witness_PkTprefixAppends : appendCorners 271 imaged = true := by decide +kernel

theorem witness_PkElhdrAppends : appendCorners 8 elemented = true := by decide +kernel

/-- An empty payload; the last two bytes of MEM to an exact fit; V75; one byte too little room; one byte
past MEM. -/
theorem witness_PkDataAppendsACopy :
    (withArgs ready 0x5000 0 0).arg1.toNat = 0
      ∧ appendCorners 2 (withArgs ready 0x3FFE 2 0) = true
      ∧ (let s := withArgs ready 0x3FFE 2 0
         s.err = 0 ∧ 0 < s.arg1.toNat ∧ s.arg0.toNat + s.arg1.toNat ≤ s.memBytes)
      ∧ (let s := withArgs ready 0x3FFF 2 0
         s.err = 0 ∧ 0 < s.arg1.toNat ∧ s.memBytes < s.arg0.toNat + s.arg1.toNat) := by decide +kernel

/-- A suffix in exactly 16 bytes of room at the end of MEM, WPOS = WBASE; V51; V73; one byte too little
room; one byte past MEM. -/
theorem witness_PkSuffixAppendsTheCrc :
    (inited.err = 0 ∧ inited.tableBuilt)
      ∧ (let s := { inited with outWin := ⟨0x3FF0, 0x3FF0, 0x4000⟩ }
         s.outWin.base.toNat ≤ s.outWin.pos.toNat ∧ s.outWin.pos.toNat + 16 ≤ s.outWin.lim.toNat
          ∧ s.outWin.pos.toNat + 16 ≤ s.memBytes)
      ∧ State.reset.tvalid = false
      ∧ (let s := { inited with outWin := ⟨0x101, 0x100, 0x300⟩ }
         s.tvalid = true ∧ s.outWin.pos.toNat < s.outWin.base.toNat)
      ∧ (let s := { inited with outWin := ⟨0x100, 0x100, 0x10F⟩ }
         s.tvalid = true ∧ s.outWin.base.toNat ≤ s.outWin.pos.toNat
          ∧ s.outWin.lim.toNat < s.outWin.pos.toNat + 16)
      ∧ (let s := { inited with outWin := ⟨0x3FF1, 0x3FF1, 0x4001⟩ }
         s.tvalid = true ∧ s.outWin.base.toNat ≤ s.outWin.pos.toNat
          ∧ s.outWin.pos.toNat + 16 ≤ s.outWin.lim.toNat ∧ s.memBytes < s.outWin.pos.toNat + 16) :=
  ⟨⟨rfl, inited_tableBuilt⟩, by decide⟩

/-- Exactly enough bytes below RLIM and inside MEM, one byte too few, one byte past MEM. -/
def consumeCorners (n : Nat) (s : State) : Bool :=
  let top : Word := BitVec.ofNat 32 (0x4000 - n)
  let fits : State := { s with inWin := ⟨0, top, 0x4000⟩ }
  let short : State := { s with inWin := ⟨0, top, 0x3FFF⟩ }
  let past : State := { s with inWin := ⟨0, top + 1, 0x4001⟩ }
  decide (s.err = 0
    ∧ (fits.inWin.pos.toNat + n ≤ fits.inWin.lim.toNat ∧ fits.inWin.pos.toNat + n ≤ fits.memBytes)
    ∧ short.inWin.lim.toNat < short.inWin.pos.toNat + n
    ∧ (past.inWin.pos.toNat + n ≤ past.inWin.lim.toNat ∧ past.memBytes < past.inWin.pos.toNat + n))

theorem witness_UpPrefixLoads : consumeCorners 11 ready = true := by decide +kernel

theorem witness_UpTprefixLoads : consumeCorners 271 ready = true := by decide +kernel

theorem witness_UpElhdrLoads : consumeCorners 8 ready = true := by decide +kernel

/-- An empty payload; two bytes to the end of MEM from an exact window; V78; one byte too few; one byte
past MEM. -/
theorem witness_UpDataCopiesThePayload :
    (withArgs ready 0x5000 0 0).arg1.toNat = 0
      ∧ consumeCorners 2 (withArgs ready 0x3FFE 2 0) = true
      ∧ (let s := withArgs ready 0x3FFE 2 0
         s.err = 0 ∧ 0 < s.arg1.toNat ∧ s.arg0.toNat + s.arg1.toNat ≤ s.memBytes)
      ∧ (let s := withArgs ready 0x3FFF 2 0
         s.err = 0 ∧ 0 < s.arg1.toNat ∧ s.memBytes < s.arg0.toNat + s.arg1.toNat) := by decide +kernel

/-- A suffix at the end of MEM, RPOS = RBASE; no table; V79's order; V80; one byte past MEM. -/
theorem witness_UpSuffixLoadsAndRecomputes :
    (ready.err = 0 ∧ ready.tableBuilt)
      ∧ (let s := { ready with inWin := ⟨0x3FF0, 0x3FF0, 0x4000⟩ }
         s.inWin.base.toNat ≤ s.inWin.pos.toNat ∧ s.inWin.pos.toNat + 16 ≤ s.inWin.lim.toNat
          ∧ s.inWin.pos.toNat + 16 ≤ s.memBytes)
      ∧ State.reset.tvalid = false
      ∧ (let s := { ready with inWin := ⟨0x101, 0x100, 0x300⟩ }
         s.tvalid = true ∧ s.inWin.pos.toNat < s.inWin.base.toNat)
      ∧ (let s := { ready with inWin := ⟨0x100, 0x100, 0x10F⟩ }
         s.tvalid = true ∧ s.inWin.base.toNat ≤ s.inWin.pos.toNat
          ∧ s.inWin.lim.toNat < s.inWin.pos.toNat + 16)
      ∧ (let s := { ready with inWin := ⟨0x3FF1, 0x3FF1, 0x4001⟩ }
         s.tvalid = true ∧ s.inWin.base.toNat ≤ s.inWin.pos.toNat
          ∧ s.inWin.pos.toNat + 16 ≤ s.inWin.lim.toNat ∧ s.memBytes < s.inWin.pos.toNat + 16) :=
  ⟨⟨rfl, ready_tableBuilt⟩, by decide⟩

/-- R82's lengths. -/
theorem witness_PackAndUnpackAreInverse :
    (packPrefix inited.pfx).length = 11 ∧ (packTprefix imaged.tgt).length = 271
      ∧ (packElhdr elemented.el).length = 8 ∧ (packSuffix inited.sfx).length = 16 := by decide +kernel

/-- V33: exactly 16 bytes of room. -/
theorem witness_UnpackedSuffixVerifies :
    let s := { inited with outWin := ⟨0x100, 0x100, 0x110⟩ }
    s.err = 0 ∧ s.tableBuilt ∧ s.outWin.base.toNat ≤ s.outWin.pos.toNat
      ∧ s.outWin.pos.toNat + 16 ≤ s.outWin.lim.toNat ∧ s.outWin.pos.toNat + 16 ≤ s.memBytes
      ∧ ∃ t, exec .pkSuffix s = .next t :=
  ⟨rfl, ⟨rfl, rfl⟩, by decide, by decide, by decide,
    exec_eq_runCommand (i := .pkSuffix) (by decide) _ ▸ runCommand_next _ _⟩

/-- The file of program P5, with the CRC the spec gives for it. -/
def fileP5 : DfuFile where
  pfx := ⟨302, 1, 1, byteArray 5 sigDfuSe⟩
  images := [
    { hdr := ⟨1, 0, 20, 2, byteArray 6 sigTarget, byteArray 255 []⟩
      elements := [⟨⟨0x08000000, 2⟩, [0xDE, 0xAD]⟩, ⟨⟨0x08000010, 2⟩, [0xBE, 0xEF]⟩] }]
  sfx := ⟨0x0200, 0xDF11, 0x0483, 0x011A, 16, 0xAC3F69DA, byteArray 3 sigUfd⟩

/-- P5: 318 bytes. -/
theorem test_fileP5_length : fileP5.bytes.length = 318 := by decide +kernel

/-- The bytes of P5 before its CRC field, cut so that each piece's CRC is a short evaluation. -/
theorem fileP5_pieces :
    fileP5.body ++ packSuffix12 fileP5.sfx
      = ([0x44, 0x66, 0x75, 0x53, 0x65, 0x01, 0x2E, 0x01, 0x00, 0x00, 0x01]
          ++ [0x54, 0x61, 0x72, 0x67, 0x65, 0x74, 0x01, 0x00])
        ++ (List.replicate 43 0 ++ (List.replicate 43 0 ++ (List.replicate 43 0
        ++ (List.replicate 43 0 ++ (List.replicate 43 0 ++ (List.replicate 40 0
        ++ ([0x14, 0x00, 0x00, 0x00, 0x02, 0x00, 0x00, 0x00]
          ++ [0x00, 0x00, 0x00, 0x08, 0x02, 0x00, 0x00, 0x00, 0xDE, 0xAD]
          ++ [0x10, 0x00, 0x00, 0x08, 0x02, 0x00, 0x00, 0x00, 0xBE, 0xEF]
          ++ [0x00, 0x02, 0x11, 0xDF, 0x83, 0x04, 0x1A, 0x01, 0x55, 0x46, 0x44, 0x10]))))))) := by
  decide +kernel

/-- P5's CRC, from the spec; the values in between only cut the evaluation. -/
theorem fileP5_crc :
    crcUpdate 0xFFFFFFFF (fileP5.body ++ packSuffix12 fileP5.sfx) = fileP5.sfx.crc := by
  rw [fileP5_pieces]
  simp only [crcUpdate]
  rw [List.foldl_append, List.foldl_append, List.foldl_append, List.foldl_append,
    List.foldl_append, List.foldl_append, List.foldl_append]
  have h1 : crcUpdate 0xFFFFFFFF ([0x44, 0x66, 0x75, 0x53, 0x65, 0x01, 0x2E, 0x01, 0x00, 0x00, 0x01]
      ++ [0x54, 0x61, 0x72, 0x67, 0x65, 0x74, 0x01, 0x00]) = 3876959127#32 := by decide +kernel
  have h2 : crcUpdate 3876959127#32 (List.replicate 43 0) = 2735150219#32 := by decide +kernel
  have h3 : crcUpdate 2735150219#32 (List.replicate 43 0) = 300767761#32 := by decide +kernel
  have h4 : crcUpdate 300767761#32 (List.replicate 43 0) = 356643889#32 := by decide +kernel
  have h5 : crcUpdate 356643889#32 (List.replicate 43 0) = 3096221191#32 := by decide +kernel
  have h6 : crcUpdate 3096221191#32 (List.replicate 43 0) = 66154265#32 := by decide +kernel
  have h7 : crcUpdate 66154265#32 (List.replicate 40 0) = 1738870539#32 := by decide +kernel
  simp only [crcUpdate] at h1 h2 h3 h4 h5 h6 h7
  rw [h1, h2, h3, h4, h5, h6, h7]
  decide +kernel

/-- P5 is well formed: its CRC field is the CRC of the bytes before it. -/
theorem witness_WellFormedFileSizes : fileP5.wellFormed where
  target_count := by decide
  num_elements := by decide +kernel
  payload := by decide +kernel
  target_size := by decide +kernel
  dfu_image_size := by decide +kernel
  crc := fileP5_crc.symm

end Sys2Proof.Machine
end

section
/-! PROOFS. The little-endian primitives as arithmetic on the number they pack (R11), and the round trips
both ways (O26). -/

namespace Sys2Proof.Machine

/-! ### Bytes of a number, number of the bytes -/

theorem le16_map_toNat (v : Half) : (le16 v).map BitVec.toNat = [v.toNat % 256, v.toNat / 256] := by
  have := v.isLt
  simp only [le16, List.map_cons, List.map_nil, BitVec.extractLsb'_toNat, Nat.shiftRight_eq_div_pow,
    List.cons.injEq, and_true]
  omega

theorem le32_map_toNat (v : Word) : (le32 v).map BitVec.toNat
    = [v.toNat % 256, v.toNat / 256 % 256, v.toNat / 65536 % 256, v.toNat / 16777216] := by
  have := v.isLt
  simp only [le32, List.map_cons, List.map_nil, BitVec.extractLsb'_toNat, Nat.shiftRight_eq_div_pow,
    List.cons.injEq, and_true, true_and]
  omega

theorem unLe16_toNat (b0 b1 : Byte) : (unLe16 [b0, b1]).toNat = b0.toNat + 256 * b1.toNat := by
  have := b0.isLt
  have := b1.isLt
  simp only [unLe16, byteAt, List.getD_cons_zero, List.getD_cons_succ, BitVec.toNat_ofNat]
  omega

theorem unLe32_toNat (b0 b1 b2 b3 : Byte) : (unLe32 [b0, b1, b2, b3]).toNat
    = b0.toNat + 256 * b1.toNat + 65536 * b2.toNat + 16777216 * b3.toNat := by
  have := b0.isLt
  have := b1.isLt
  have := b2.isLt
  have := b3.isLt
  simp only [unLe32, byteAt, List.getD_cons_zero, List.getD_cons_succ, BitVec.toNat_ofNat]
  omega

/-! ### Round trips -/

/-- A byte sequence is known by the values of its bytes. -/
theorem bytes_eq_of_map_toNat_eq {s t : List Byte} (h : s.map BitVec.toNat = t.map BitVec.toNat) : s = t :=
  List.map_injective_iff.2 (fun _ _ => BitVec.eq_of_toNat_eq) h

@[simp] theorem unLe16_le16 (v : Half) : unLe16 (le16 v) = v := by
  apply BitVec.eq_of_toNat_eq
  have hbytes := le16_map_toNat v
  simp only [le16, List.map_cons, List.map_nil, List.cons.injEq, and_true] at hbytes ⊢
  obtain ⟨h0, h1⟩ := hbytes
  rw [unLe16_toNat, h0, h1]
  omega

@[simp] theorem unLe32_le32 (v : Word) : unLe32 (le32 v) = v := by
  apply BitVec.eq_of_toNat_eq
  have hbytes := le32_map_toNat v
  simp only [le32, List.map_cons, List.map_nil, List.cons.injEq, and_true] at hbytes ⊢
  obtain ⟨h0, h1, h2, h3⟩ := hbytes
  rw [unLe32_toNat, h0, h1, h2, h3]
  omega

theorem le16_unLe16 {s : List Byte} (hs : s.length = 2) : le16 (unLe16 s) = s := by
  obtain ⟨b0, b1, rfl⟩ := List.length_eq_two.1 hs
  apply bytes_eq_of_map_toNat_eq
  have := b0.isLt
  have := b1.isLt
  rw [le16_map_toNat, unLe16_toNat]
  simp only [List.map_cons, List.map_nil, List.cons.injEq, and_true]
  omega

theorem le32_unLe32 {s : List Byte} (hs : s.length = 4) : le32 (unLe32 s) = s := by
  match s, hs with
  | [b0, b1, b2, b3], _ =>
    apply bytes_eq_of_map_toNat_eq
    have := b0.isLt
    have := b1.isLt
    have := b2.isLt
    have := b3.isLt
    rw [le32_map_toNat, unLe32_toNat]
    simp only [List.map_cons, List.map_nil, List.cons.injEq, and_true]
    omega

/-- Settles O26: each primitive as arithmetic on the bytes, from which the inverses follow. -/
theorem littleEndianInverses : Obligations.LittleEndianInverses :=
  ⟨le16_map_toNat, le32_map_toNat, unLe16_toNat, unLe32_toNat, unLe16_le16, unLe32_le32,
    fun _ => le16_unLe16, fun _ => le32_unLe32⟩

end Sys2Proof.Machine
end

section
/-! PROOFS. Every step keeps the invariant (O18). The invariant reads six fields of the state. A completed
command and a host access change them in one way only, `BoundedEffect`; taking a fault and the two resets
are the rest. -/

namespace Sys2Proof.Machine

/-! ### What the invariant reads -/

/-- The fields `State.Inv` speaks of. -/
def State.invFields (s : State) : Byte × Word × Nat × Memory × Bool × Vector Word 256 :=
  (s.err, s.errInfo, s.memBytes, s.mem, s.tvalid, s.tbl)

/-- The change from `s` to `t` keeps ERR, ERRINFO and MEM_BYTES, stores at most one byte sequence, inside
MEM (R46), and keeps the table or leaves the constants of R85 in it. -/
structure BoundedEffect (s t : State) : Prop where
  err : t.err = s.err
  errInfo : t.errInfo = s.errInfo
  memBytes : t.memBytes = s.memBytes
  mem : ∃ a bs, s.inMem a bs.length ∧ t.mem = s.mem.write a bs
  table : (t.tvalid = s.tvalid ∧ t.tbl = s.tbl) ∨ t.tbl = crcTable

theorem BoundedEffect.of_invFields_eq {s t : State} (h : t.invFields = s.invFields) :
    BoundedEffect s t := by
  simp only [State.invFields, Prod.mk.injEq] at h
  obtain ⟨herr, hinfo, hbytes, hmem, hvalid, htbl⟩ := h
  exact ⟨herr, hinfo, hbytes, ⟨0, [], .inl rfl, hmem⟩, .inl ⟨hvalid, htbl⟩⟩

/-- A store inside MEM, by a state that differs from `s` in nothing the invariant reads. -/
theorem BoundedEffect.of_writeBytes {s u t : State} {a : Nat} {bs : List Byte}
    (hu : u.invFields = s.invFields) (hin : u.inMem a bs.length)
    (ht : t.invFields = (u.writeBytes a bs).invFields) : BoundedEffect s t := by
  simp only [State.invFields, Prod.mk.injEq, State.writeBytes_err, State.writeBytes_errInfo,
    State.writeBytes_memBytes, State.writeBytes_mem, State.writeBytes_tvalid, State.writeBytes_tbl] at hu ht
  obtain ⟨herr, hinfo, hbytes, hmem, hvalid, htbl⟩ := ht
  obtain ⟨uerr, uinfo, ubytes, umem, uvalid, utbl⟩ := hu
  exact ⟨herr.trans uerr, hinfo.trans uinfo, hbytes.trans ubytes,
    ⟨a, bs, hin.imp_right (ubytes ▸ ·), umem ▸ hmem⟩, .inl ⟨hvalid.trans uvalid, htbl.trans utbl⟩⟩

theorem State.Inv.of_boundedEffect {s t : State} (hs : s.Inv) (h : BoundedEffect s t) : t.Inv where
  memBytes_pos := h.memBytes ▸ hs.memBytes_pos
  memBytes_le := h.memBytes ▸ hs.memBytes_le
  mem_wf := by
    obtain ⟨a, bs, -, hmem⟩ := h.mem
    exact hmem ▸ Memory.wf_write a bs hs.mem_wf
  mem_inside := by
    obtain ⟨a, bs, hin, hmem⟩ := h.mem
    rw [hmem, h.memBytes]
    exact Memory.write_bounded hs.mem_inside hin
  table := by
    rcases h.table with ⟨hvalid, htbl⟩ | htbl
    · rw [hvalid, htbl]; exact hs.table
    · exact fun _ => htbl
  err_live := h.err ▸ hs.err_live
  errInfo_clear := by rw [h.err, h.errInfo]; exact hs.errInfo_clear

theorem State.Inv.of_invFields_eq {s t : State} (hs : s.Inv) (h : t.invFields = s.invFields) : t.Inv :=
  hs.of_boundedEffect (.of_invFields_eq h)

/-! ### Faults and resets -/

/-- Every kind a command raises has a live code (R141). -/
theorem faultCode_live_of_raisedBy (i : Instr) : ∀ k ∈ raisedBy i, faultCode k ∈ liveCodes := by
  cases i <;> simp [raisedBy, faultCode, liveCodes]

theorem State.Inv.latched {s : State} (hs : s.Inv) {e : Trap} (he : faultCode e.kind ∈ liveCodes) :
    (s.latched e).Inv where
  memBytes_pos := hs.memBytes_pos
  memBytes_le := hs.memBytes_le
  mem_wf := hs.mem_wf
  mem_inside := hs.mem_inside
  table := hs.table
  err_live := he
  errInfo_clear h := absurd h (faultCode_ne_zero e.kind)

theorem State.Inv.raise {s : State} (hs : s.Inv) {e : Trap} (he : faultCode e.kind ∈ liveCodes) :
    (raise e s).Inv := by
  by_cases h : s.err = 0
  · rw [raise_of_clear h]; exact hs.latched he
  · rw [raise_of_latched h]; exact hs

theorem State.Inv.softReset {s : State} (hs : s.Inv) : (softReset s).Inv where
  memBytes_pos := hs.memBytes_pos
  memBytes_le := hs.memBytes_le
  mem_wf := hs.mem_wf
  mem_inside := hs.mem_inside
  table := hs.table
  err_live := by simp [liveCodes]
  errInfo_clear _ := rfl

theorem State.Inv.hardReset {s : State} (hs : s.Inv) : (hardReset s).Inv where
  memBytes_pos := hs.memBytes_pos
  memBytes_le := hs.memBytes_le
  mem_wf := reset_mem_wf
  mem_inside := by simp
  table h := by simp at h
  err_live := by simp [liveCodes]
  errInfo_clear _ := rfl

/-! ### What the rule of a command answers -/

/-- A rule run in `s` completes with a bounded effect, or raises one of `kinds`. -/
def Answers (s : State) (kinds : List FaultKind) : Except Trap State → Prop
  | .ok t => BoundedEffect s t
  | .error e => e.kind ∈ kinds

section
variable {s : State} {kinds : List FaultKind} {r : Except Trap State}

theorem Answers.mono {kinds' : List FaultKind} (h : Answers s kinds r) (hsub : kinds ⊆ kinds') :
    Answers s kinds' r := by
  cases r with
  | ok t => exact h
  | error e => exact hsub h

/-- One check in front of a rule. -/
theorem Answers.check {c : Prop} [Decidable c] {e : Trap} (h : ¬ c → Answers s kinds r)
    (he : e.kind ∈ kinds := by simp [raisedBy]) : Answers s kinds (if c then .error e else r) := by
  split
  · exact he
  · exact h ‹_›

/-- A rule that ends by writing fields the invariant does not read. -/
theorem Answers.ok_of_invFields_eq {t : State} (h : t.invFields = s.invFields) :
    Answers s kinds (.ok t) :=
  BoundedEffect.of_invFields_eq h

end

@[simp] theorem overflowOf_kind (r : Reg) : (overflowOf r).kind = .fieldOverflow := rfl

theorem emit_answers {s u : State} (hu : u.invFields = s.invFields) (bs : List Byte) :
    Answers s [.ioWriteShort, .bufRange] (emit bs u) := by
  rcases emit_cases bs u with ⟨-, -, h⟩ | ⟨-, -, -, h⟩ | ⟨hfit, h⟩
  · simp [h, Answers]
  · simp [h, Answers]
  · rw [h]
    exact BoundedEffect.of_writeBytes hu (hfit.imp_right And.right) rfl

theorem loadStream_answers {s : State} {n : Nat} {load : List Byte → State → State}
    (hload : ∀ bs w, bs.length = n → BoundedEffect s (load bs { s with inWin := w })) :
    Answers s [.ioReadShort, .bufRange] (loadStream n load s) := by
  rcases loadStream_cases n load s with ⟨-, -, h⟩ | ⟨-, -, -, h⟩ | ⟨-, h⟩
  · simp [h, Answers]
  · simp [h, Answers]
  · rw [h]
    exact hload _ _ (s.readBytes_length _ _)

/-- Every command but SYS.RESET: its checks raise the kinds of its row in R141, and past them its effect is
bounded. -/
theorem ruleOf_answers {i : Instr} (hi : i ≠ .sysReset) (s : State) :
    Answers s (raisedBy i) (ruleOf i s) := by
  cases i with
  | sysReset => exact absurd rfl hi
  | nop => exact .ok_of_invFields_eq rfl
  | crcTinit => exact ⟨rfl, rfl, rfl, ⟨0, [], .inl rfl, rfl⟩, .inr rfl⟩
  | crcSeed => exact .ok_of_invFields_eq rfl
  | crcByte imm8 => exact .check fun _ => .ok_of_invFields_eq rfl
  | crcBlock => exact .check fun _ => .check fun _ => .ok_of_invFields_eq rfl
  | dmInit => exact .check fun _ => .check fun _ => .check fun _ => .ok_of_invFields_eq rfl
  | dmAddimg imm8 =>
    exact .check fun _ => .check fun _ => .check fun _ => .check fun _ => .ok_of_invFields_eq rfl
  | dmAddel =>
    exact .check fun _ => .check fun _ => .check fun _ => .check fun _ => .ok_of_invFields_eq rfl
  | pkPrefix => exact emit_answers rfl _
  | pkTprefix => exact emit_answers rfl _
  | pkElhdr => exact emit_answers rfl _
  | pkData => exact .check fun _ => (emit_answers rfl _).mono (by simp [raisedBy])
  | pkSuffix =>
    exact .check fun _ => .check fun _ => .check fun _ => .check fun _ =>
      (emit_answers (by rfl) _).mono (by simp [raisedBy])
  | upPrefix => exact loadStream_answers fun _ _ _ => .of_invFields_eq rfl
  | upTprefix => exact loadStream_answers fun _ _ _ => .of_invFields_eq rfl
  | upElhdr => exact loadStream_answers fun _ _ _ => .of_invFields_eq rfl
  | upData =>
    refine .check fun hin => (loadStream_answers fun bs w hlen => ?_).mono (by simp [raisedBy])
    exact .of_writeBytes rfl (hlen ▸ not_not.1 hin) rfl
  | upSuffix =>
    exact .check fun _ => .check fun _ => .check fun _ => .check fun _ =>
      (loadStream_answers fun _ _ _ => .of_invFields_eq rfl).mono (by simp [raisedBy])

theorem ruleOf_ok_boundedEffect {i : Instr} {s t : State} (hi : i ≠ .sysReset) (h : ruleOf i s = .ok t) :
    BoundedEffect s t := by
  have := ruleOf_answers hi s
  rwa [h] at this

/-- SYS.RESET raises nothing, so the row of R141 bounds the kinds of every command. -/
theorem ruleOf_error_raisedBy {i : Instr} {s : State} {e : Trap} (h : ruleOf i s = .error e) :
    e.kind ∈ raisedBy i := by
  have hi : i ≠ .sysReset := by rintro rfl; cases h
  have := ruleOf_answers hi s
  rwa [h] at this

/-! ### Commands, host actions and steps -/

theorem exec_keeps_inv {i : Instr} {s t : State} (hs : s.Inv) (h : exec i s = .next t) : t.Inv := by
  rcases exec_cases h with ⟨-, rfl⟩ | ⟨-, -, rfl⟩ | ⟨hi, -, hok⟩ | ⟨-, -, e, herror, rfl⟩
  · exact hs.softReset
  · exact hs
  · exact hs.of_boundedEffect (ruleOf_ok_boundedEffect hi hok)
  · exact hs.latched (faultCode_live_of_raisedBy i e.kind (ruleOf_error_raisedBy herror))

theorem commandWrite_keeps_inv {w : Word} {s t : State} (hs : s.Inv) (h : commandWrite w s = .next t) :
    t.Inv := by
  rcases commandWrite_cases w s with ⟨i, -, hexec⟩ | ⟨_, -, hraise⟩
  · exact exec_keeps_inv hs (hexec ▸ h)
  · cases hraise.symm.trans h
    exact hs.raise (by simp [faultCode, liveCodes])

theorem State.writeNumber_invFields (s : State) (number : RegNum) (d : Word) :
    (s.writeNumber number d).invFields = s.invFields := by
  unfold State.writeNumber
  split
  · simp [State.invFields]
  · rfl

theorem registerWrite_keeps_inv {number : RegNum} {d : Word} {s t : State} (hs : s.Inv)
    (h : registerWrite number d s = .next t) : t.Inv := by
  unfold registerWrite at h
  split at h
  · exact commandWrite_keeps_inv hs h
  · cases h
    exact hs.of_invFields_eq (s.writeNumber_invFields number d)

/-- A host action the spec gives the host (R41) keeps the invariant. -/
theorem performAction_keeps_inv {a : HostAction} {s t : State} (hs : s.Inv) (hwf : a.wf s.memBytes = true)
    (h : performAction a s = .next t) : t.Inv := by
  cases a with
  | rd number => cases h; exact hs.of_invFields_eq rfl
  | wr number d => exact registerWrite_keeps_inv hs h
  | memRd addr n => cases h; exact hs.of_invFields_eq rfl
  | memWr addr bs =>
    cases h
    exact hs.of_boundedEffect (.of_writeBytes rfl (.inr (of_decide_eq_true hwf)) rfl)
  | hardReset => cases h; exact hs.hardReset

/-- Settles O18, by cases on what the step does with the next host action. -/
theorem stepKeepsInvariant : Obligations.StepKeepsInvariant := by
  intro s t hs h
  rcases takeAction_cases s with ⟨-, hwait⟩ | ⟨_, _, -, -, hrefuse⟩ | ⟨a, rest, -, hwf, hact⟩
  · cases hwait.symm.trans h
    exact hs
  · cases hrefuse.symm.trans h
  · exact performAction_keeps_inv (s := s.begin rest) (hs.of_invFields_eq rfl) hwf (hact ▸ h)

end Sys2Proof.Machine
end

section
/-! PROOFS. The register map and what a host access to it does (O9 to O13): the map and its inverse, reads
and writes of the register file, and the two register accesses as steps. -/

namespace Sys2Proof.Machine

/-! ### The map of numbers (R32, R33) -/

theorem regNumber_tgtName_toNat (i : Fin 255) : (regNumber (.tgtName i)).toNat = 0x100 + i := by
  have := i.isLt
  simp only [regNumber, BitVec.toNat_ofNat]
  omega

/-- Everything the map can answer: the register whose number was asked for, or nothing. Its last branch is
the array TGT_NAME, every other one a single number. -/
theorem regAt_cases (n : RegNum) :
    (∃ r, regAt n = some r ∧ regNumber r = n ∧ mappedNumber n.toNat)
      ∨ (regAt n = none ∧ ¬ mappedNumber n.toNat) := by
  unfold regAt
  split
  case h_44 =>
    split
    case isTrue h =>
      refine .inl ⟨_, rfl, BitVec.eq_of_toNat_eq ?_, by omega⟩
      rw [regNumber_tgtName_toNat]
      exact Nat.add_sub_cancel' h.2
    case isFalse h =>
      refine .inr ⟨rfl, ?_⟩
      simp only [mappedNumber, not_or, imp_false] at *
      and_intros <;> omega
  all_goals exact .inl ⟨_, rfl, BitVec.eq_of_toNat_eq (.symm ‹_›), by omega⟩

theorem regNumber_of_regAt {n : RegNum} {r : Reg} (h : regAt n = some r) : regNumber r = n := by
  rcases regAt_cases n with ⟨r', hr', hn, -⟩ | ⟨hnone, -⟩
  · cases hr'.symm.trans h; exact hn
  · cases hnone.symm.trans h

theorem regAt_eq_none_iff (n : RegNum) : regAt n = none ↔ ¬ mappedNumber n.toNat := by
  rcases regAt_cases n with ⟨r, hr, -, hmapped⟩ | ⟨hnone, hunmapped⟩
  · simp only [hr, reduceCtorEq, false_iff, not_not, hmapped]
  · simp only [hnone, hunmapped, not_false_eq_true]

theorem regAt_tgtName (i : Fin 255) : regAt (regNumber (.tgtName i)) = some (.tgtName i) := by
  have hnumber := regNumber_tgtName_toNat i
  unfold regAt
  split
  case h_44 => simp [hnumber]
  all_goals omega

@[simp] theorem regAt_regNumber (r : Reg) : regAt (regNumber r) = some r := by
  cases r with
  | pfxSig i => revert i; decide
  | tgtSig i => revert i; decide
  | sfxSig i => revert i; decide
  | tgtName i => exact regAt_tgtName i
  | _ => rfl

/-- Settles O9: the single rows are closed facts, the rest lemmas about the map. -/
theorem registerMap : Obligations.RegisterMap :=
  ⟨by decide, fun i => ⟨regAt_regNumber (.pfxSig i), rfl, rfl⟩,
    fun i => ⟨regAt_regNumber (.tgtSig i), rfl, rfl⟩, fun i => ⟨regAt_regNumber (.sfxSig i), rfl, rfl⟩,
    fun i => ⟨regAt_regNumber (.tgtName i), rfl, rfl⟩, regAt_eq_none_iff⟩

/-! ### Reads and writes by number -/

theorem State.readNumber_of_regAt {n : RegNum} {r : Reg} (h : regAt n = some r) (s : State) :
    s.readNumber n = s.readReg r := by
  simp [State.readNumber, h]

theorem State.writeNumber_of_regAt {n : RegNum} {r : Reg} (h : regAt n = some r) (s : State) (d : Word) :
    s.writeNumber n d = s.writeReg r d := by
  simp [State.writeNumber, h]

theorem State.readNumber_regNumber (s : State) (r : Reg) : s.readNumber (regNumber r) = s.readReg r :=
  s.readNumber_of_regAt (regAt_regNumber r)

theorem State.readNumber_unmapped {n : RegNum} (h : regAt n = none) (s : State) : s.readNumber n = 0 := by
  simp [State.readNumber, h]

theorem State.writeNumber_unmapped {n : RegNum} (h : regAt n = none) (s : State) (d : Word) :
    s.writeNumber n d = s := by
  simp [State.writeNumber, h]

/-! ### The register file (R34) -/

@[simp] theorem State.readReg_begin (s : State) (rest : List HostAction) (r : Reg) :
    (s.begin rest).readReg r = s.readReg r := by
  cases r <;> rfl

@[simp] theorem State.readNumber_begin (s : State) (rest : List HostAction) (n : RegNum) :
    (s.begin rest).readNumber n = s.readNumber n := by
  cases h : regAt n with
  | none => rw [State.readNumber_unmapped h, State.readNumber_unmapped h]
  | some r => rw [State.readNumber_of_regAt h, State.readNumber_of_regAt h, State.readReg_begin]

/-- A read zero-extends a narrow field. -/
theorem toNat_zeroExtended {w : Nat} (x : BitVec w) (hw : w ≤ 32 := by decide) :
    (x.setWidth 32).toNat = x.toNat :=
  BitVec.toNat_setWidth_of_le hw

theorem toNat_zeroExtended_lt {w : Nat} (x : BitVec w) (hw : w ≤ 32 := by decide) :
    (x.setWidth 32).toNat < 2 ^ w :=
  toNat_zeroExtended x hw ▸ x.isLt

/-- A read value fits the register's width. -/
theorem State.readReg_toNat_lt (s : State) (r : Reg) : (s.readReg r).toNat < 2 ^ regWidth r := by
  cases r with
  | err | pfxTcnt | pfxVer | pfxSig | tgtAlt | tgtNamed | tgtSig | tgtName | sfxDev | sfxProd | sfxVend
  | sfxDfu | sfxLen | sfxSig => exact toNat_zeroExtended_lt _
  | _ => exact BitVec.isLt _

/-- `d[N-1:0]` of a narrow register, read back zero-extended. -/
theorem toNat_truncated (d : Word) (w : Nat) (hw : w ≤ 32 := by decide) :
    ((d.setWidth w).setWidth 32).toNat = d.toNat % 2 ^ w :=
  (toNat_zeroExtended _ hw).trans (BitVec.toNat_setWidth w d)

/-- A write of a read-write register of width N stores `d[N-1:0]`. -/
theorem State.readReg_writeReg_same {r : Reg} (hr : regAccess r = .readWrite) (s : State) (d : Word) :
    ((s.writeReg r d).readReg r).toNat = d.toNat % 2 ^ regWidth r := by
  cases r with
  | cmd | status | err | errInfo => cases hr
  | pfxTcnt | pfxVer | tgtAlt | tgtNamed | sfxLen | sfxDev | sfxProd | sfxVend | sfxDfu =>
    exact toNat_truncated d _
  | pfxSig | tgtSig | tgtName | sfxSig =>
    simpa [State.readReg, State.writeReg, regWidth] using toNat_truncated d 8
  | _ => exact (Nat.mod_eq_of_lt d.isLt).symm

theorem State.writeReg_readOnly {r : Reg} (hr : regAccess r = .readOnly) (s : State) (d : Word) :
    s.writeReg r d = s := by
  cases r with
  | status | err | errInfo => rfl
  | _ => cases hr

/-- A write to one register of an array `array` leaves the read value of every other one. -/
theorem readElem_set_of_ne {n : Nat} (array : Fin n → Reg) {i j : Fin n} (hne : array j ≠ array i)
    (v : Vector Byte n) (b : Byte) : (v.set i b)[j].setWidth 32 = v[j].setWidth 32 := by
  have hij : i.val ≠ j.val := fun h => hne (congrArg array (Fin.ext h)).symm
  exact congrArg _ (Vector.getElem_set_ne i.isLt j.isLt hij)

/-- No two registers share storage: different constructors name different fields, different indices
different elements of an array. -/
theorem State.readReg_writeReg_of_ne {r r' : Reg} (hne : r' ≠ r) (s : State) (d : Word) :
    (s.writeReg r d).readReg r' = s.readReg r' := by
  cases r with
  | pfxSig i =>
    cases r' with
    | pfxSig j => exact readElem_set_of_ne .pfxSig hne ..
    | _ => rfl
  | tgtSig i =>
    cases r' with
    | tgtSig j => exact readElem_set_of_ne .tgtSig hne ..
    | _ => rfl
  | tgtName i =>
    cases r' with
    | tgtName j => exact readElem_set_of_ne .tgtName hne ..
    | _ => rfl
  | sfxSig i =>
    cases r' with
    | sfxSig j => exact readElem_set_of_ne .sfxSig hne ..
    | _ => rfl
  | _ => cases r' <;> first | rfl | contradiction

/-! ### The view STATUS (R18) -/

theorem State.status_toNat (s : State) : s.status.toNat = s.faultFlag.toNat + 2 * s.tvalid.toNat := by
  unfold State.status State.tvalidFlag
  cases s.faultFlag <;> cases s.tvalid <;> rfl

theorem State.faultFlag_iff (s : State) : s.faultFlag = true ↔ s.err ≠ 0 := bne_iff_ne

theorem State.faultFlag_toNat (s : State) : s.faultFlag.toNat = if s.err = 0 then 0 else 1 := by
  cases h : s.faultFlag with
  | true => exact (if_neg (s.faultFlag_iff.1 h)).symm
  | false => exact (if_pos (by simpa [State.faultFlag] using h)).symm

theorem State.readNumber_status (s : State) : s.readNumber 0x01 = s.status :=
  s.readNumber_regNumber .status

theorem State.status_getLsbD_zero (s : State) : s.status.getLsbD 0 = s.faultFlag := by
  rw [BitVec.getLsbD, s.status_toNat]
  cases s.faultFlag <;> cases s.tvalid <;> rfl

theorem State.status_getLsbD_one (s : State) : s.status.getLsbD 1 = s.tvalid := by
  rw [BitVec.getLsbD, s.status_toNat]
  cases s.faultFlag <;> cases s.tvalid <;> rfl

theorem State.status_getLsbD_of_ge (s : State) {i : Nat} (hi : 2 ≤ i) : s.status.getLsbD i = false := by
  have hfault := s.faultFlag.toNat_le
  have hvalid := s.tvalid.toNat_le
  have hpow : 2 ^ 2 ≤ 2 ^ i := Nat.pow_le_pow_right (by decide) hi
  rw [BitVec.getLsbD, s.status_toNat]
  exact Nat.testBit_lt_two_pow (by omega)

theorem State.status_of_clear {s : State} (herr : s.err = 0) (hvalid : s.tvalid = false) : s.status = 0 := by
  apply BitVec.eq_of_toNat_eq
  rw [s.status_toNat, s.faultFlag_toNat, if_pos herr, hvalid]
  rfl

/-- Settles O13, bit by bit. -/
theorem statusIsAView : Obligations.StatusIsAView := by
  refine ⟨fun s => ?_, rfl⟩
  rw [s.readNumber_status]
  exact ⟨by rw [s.status_getLsbD_zero, s.faultFlag_iff], s.status_getLsbD_one,
    fun i => s.status_getLsbD_of_ge, fun _ => rfl⟩

/-! ### Register accesses as steps (R130) -/

/-- A step with a well-formed action to come performs it (R15, R53). -/
theorem step_of_script {s : State} {a : HostAction} {rest : List HostAction} (h : s.script = a :: rest)
    (hwf : a.wf s.memBytes = true) : step s = performAction a (s.begin rest) := by
  simp [step, takeAction, h, hwf]

theorem step_rd {s : State} {n : RegNum} {rest : List HostAction} (h : s.script = .rd n :: rest) :
    step s = .next { s with script := rest, reply := .word (s.readNumber n) } := by
  rw [step_of_script h rfl, ← s.readNumber_begin rest n]
  rfl

/-- A plain register write: the number is not CMD's. -/
theorem step_wr {s : State} {n : RegNum} {d : Word} {rest : List HostAction}
    (hn : n ≠ regNumber .cmd) (h : s.script = .wr n d :: rest) :
    step s = .next ((s.begin rest).writeNumber n d) := by
  rw [step_of_script h rfl]
  exact if_neg hn

theorem ne_cmd_of_regAt {n : RegNum} {r : Reg} (h : regAt n = some r) (hr : r ≠ .cmd) :
    n ≠ regNumber .cmd := by
  rintro rfl
  exact hr (Option.some.inj ((regAt_regNumber .cmd).symm.trans h)).symm

/-- A plain write to a mapped number. -/
theorem step_wr_of_regAt {s : State} {n : RegNum} {r : Reg} {d : Word} {rest : List HostAction}
    (hat : regAt n = some r) (hr : r ≠ .cmd) (h : s.script = .wr n d :: rest) :
    step s = .next ((s.begin rest).writeReg r d) := by
  rw [step_wr (ne_cmd_of_regAt hat hr) h, State.writeNumber_of_regAt hat]

/-- Settles O10: the map answers nothing there, for a read and for a write. -/
theorem unmappedNumbersAreInert : Obligations.UnmappedNumbersAreInert := by
  intro s n d rest hn
  have hnone : regAt n = none := (regAt_eq_none_iff n).2 hn
  have hcmd : n ≠ regNumber .cmd := by rintro rfl; cases hnone
  constructor
  · intro h
    rw [step_rd h, State.readNumber_unmapped hnone]
  · intro h
    rw [step_wr hcmd h, State.writeNumber_unmapped hnone]
    rfl

/-- Settles O12: the number of a register is unique, and so is its storage. -/
theorem noTwoRegistersAlias : Obligations.NoTwoRegistersAlias := by
  constructor
  · intro m n r hm hn
    exact (regNumber_of_regAt hm).symm.trans (regNumber_of_regAt hn)
  · intro s t n r r' d rest hat hr hne h hstep
    cases (step_wr_of_regAt hat hr h).symm.trans hstep
    exact ⟨by rw [State.readReg_writeReg_of_ne hne, State.readReg_begin], by simp, by simp,
      State.readByte_congr (by simp) (by simp)⟩

/-- Settles O11: the values row by row, narrow fields zero-extended; the accesses from the step lemmas. -/
theorem registerAccess : Obligations.RegisterAccess := by
  constructor
  · intro s
    refine ⟨?_, fun i => ?_, fun i => ?_, fun i => ?_, fun i => ?_⟩
    · have hstatus : (s.readNumber 0x01).toNat = (if s.err = 0 then 0 else 1) + 2 * s.tvalid.toNat := by
        rw [s.readNumber_status, s.status_toNat, s.faultFlag_toNat]
      simp only [List.forall_mem_cons]
      exact ⟨rfl, hstatus, toNat_zeroExtended s.err, rfl, rfl, rfl, rfl, rfl, rfl, rfl, rfl, rfl, rfl, rfl,
        rfl, toNat_zeroExtended s.pfx.tcnt, toNat_zeroExtended s.pfx.ver,
        toNat_zeroExtended s.tgt.alt, toNat_zeroExtended s.tgt.named, rfl, rfl, rfl, rfl,
        toNat_zeroExtended s.sfx.dev, toNat_zeroExtended s.sfx.prod, toNat_zeroExtended s.sfx.vend,
        toNat_zeroExtended s.sfx.dfu, toNat_zeroExtended s.sfx.len, rfl, List.forall_mem_nil _⟩
    · exact (congrArg _ (s.readNumber_regNumber (.pfxSig i))).trans (toNat_zeroExtended _)
    · exact (congrArg _ (s.readNumber_regNumber (.tgtSig i))).trans (toNat_zeroExtended _)
    · exact (congrArg _ (s.readNumber_regNumber (.sfxSig i))).trans (toNat_zeroExtended _)
    · exact (congrArg _ (s.readNumber_regNumber (.tgtName i))).trans (toNat_zeroExtended _)
  · intro s n d rest
    refine ⟨step_rd, fun r hat => ⟨s.readNumber_of_regAt hat, s.readReg_toNat_lt r, ?_, ?_⟩⟩
    · intro hacc h
      have hr : r ≠ .cmd := by rintro rfl; cases hacc
      refine ⟨_, step_wr_of_regAt hat hr h, ?_⟩
      rw [State.readNumber_of_regAt hat, State.readReg_writeReg_same hacc]
    · intro hacc h
      have hr : r ≠ .cmd := by rintro rfl; cases hacc
      rw [step_wr_of_regAt hat hr h, State.writeReg_readOnly hacc]
      rfl

end Sys2Proof.Machine
end

section
/-! PROOFS. What the resets leave (O15) and the invariant of the reset state (O17). -/

namespace Sys2Proof.Machine

/-- The cleared groups of registers hold the values of the table of R38 one by one. -/
theorem State.registersReset_of_zero {s : State} (herr : s.err = 0) (hinfo : s.errInfo = 0)
    (harg0 : s.arg0 = 0) (harg1 : s.arg1 = 0) (harg2 : s.arg2 = 0) (hacc : s.acc = crcSeed)
    (hout : s.outWin = .zero) (hin : s.inWin = .zero) (hpfx : s.pfx = .zero) (htgt : s.tgt = .zero)
    (hel : s.el = .zero) (hsfx : s.sfx = .zero) : s.registersReset := by
  simp [State.registersReset, herr, hinfo, harg0, harg1, harg2, hacc, hout, hin, hpfx, htgt, hel, hsfx,
    crcSeed, Window.zero, PrefixRegs.zero, TargetRegs.zero, ElementRegs.zero, SuffixRegs.zero]

theorem reset_registersReset : State.reset.registersReset := by
  apply State.registersReset_of_zero <;> rfl

theorem hardReset_registersReset (s : State) : (hardReset s).registersReset := by
  apply State.registersReset_of_zero <;> rfl

theorem softReset_registersReset (s : State) : (softReset s).registersReset := by
  apply State.registersReset_of_zero <;> rfl

theorem step_hardReset {s : State} {rest : List HostAction} (h : s.script = .hardReset :: rest) :
    step s = .next (hardReset (s.begin rest)) :=
  step_of_script h rfl

/-- Settles O15, one reset at a time. -/
theorem resetValues : Obligations.ResetValues := by
  refine ⟨⟨reset_registersReset, rfl, rfl⟩, fun s rest h => ?_, fun s => ?_⟩
  · refine ⟨_, step_hardReset h, hardReset_registersReset _, rfl, ?_⟩
    rw [State.readNumber_status, State.status_of_clear rfl rfl]
  · refine ⟨_, exec_sysReset s, softReset_registersReset s, rfl, rfl, ?_, ?_, fun _ => rfl, rfl⟩
    · rw [State.readNumber_status, State.status_getLsbD_zero]; rfl
    · rw [State.readNumber_status, State.status_getLsbD_one]; rfl

/-- Settles O17, one field of the invariant at a time. -/
theorem resetSatisfiesInvariant : Obligations.ResetSatisfiesInvariant where
  memBytes_pos := by decide
  memBytes_le := by decide
  mem_wf := reset_mem_wf
  mem_inside := by simp [State.reset]
  table h := by cases h
  err_live := by decide
  errInfo_clear _ := rfl

end Sys2Proof.Machine
end

section
/-! PROOFS. What each command leaves alone (O20). Every command but SYS.RESET answers the state before it
with the fields the rules name for that command, and ERR and ERRINFO, replaced. -/

namespace Sys2Proof.Machine

/-- `s` with every field that the command `i` may write taken from `u` (R21 to R26, R30, R31, R45, R106,
R120, R143). -/
def State.takeWrites (s : State) (i : Instr) (u : State) : State :=
  { s with
    err := u.err
    errInfo := u.errInfo
    acc := if writesAcc i then u.acc else s.acc
    tbl := if i = .crcTinit then u.tbl else s.tbl
    tvalid := if i = .crcTinit then u.tvalid else s.tvalid
    outWin := { s.outWin with pos := if movesOut i then u.outWin.pos else s.outWin.pos }
    inWin := { s.inWin with pos := if movesIn i then u.inWin.pos else s.inWin.pos }
    pfx := if writesPfx i then u.pfx else s.pfx
    tgt := if writesTgt i then u.tgt else s.tgt
    el := if writesEl i then u.el else s.el
    sfx := if writesSfx i then u.sfx else s.sfx
    mem := if writesMem i then u.mem else s.mem }

@[simp] theorem State.takeWrites_self (s : State) (i : Instr) : s.takeWrites i s = s := by
  simp [State.takeWrites]

@[simp] theorem State.takeWrites_latched (s : State) (i : Instr) (e : Trap) :
    s.takeWrites i (s.latched e) = s.latched e := by
  simp [State.takeWrites, State.latched]

/-! ### What holds when a rule completes -/

/-- If the rule completes, its state has property `P`. -/
def OnCompletion (P : State → Prop) : Except Trap State → Prop
  | .ok t => P t
  | .error _ => True

section
variable {P : State → Prop}

/-- One check in front of a rule. -/
theorem OnCompletion.check {c : Prop} [Decidable c] {e : Trap} {r : Except Trap State}
    (h : OnCompletion P r) : OnCompletion P (if c then .error e else r) := by
  split
  · trivial
  · exact h

theorem emit_onCompletion {s : State} {bs : List Byte}
    (h : ∀ m p, P { s with mem := m, outWin := { s.outWin with pos := p } }) :
    OnCompletion P (emit bs s) := by
  rcases emit_cases bs s with ⟨-, -, hemit⟩ | ⟨-, -, -, hemit⟩ | ⟨-, hemit⟩ <;> rw [hemit]
  · trivial
  · trivial
  · exact h _ _

theorem loadStream_onCompletion {s : State} {n : Nat} {load : List Byte → State → State}
    (h : ∀ bs p, P (load bs { s with inWin := { s.inWin with pos := p } })) :
    OnCompletion P (loadStream n load s) := by
  rcases loadStream_cases n load s with ⟨-, -, hload⟩ | ⟨-, -, -, hload⟩ | ⟨-, hload⟩ <;> rw [hload]
  · trivial
  · trivial
  · exact h _ _

end

/-! ### Frames of the commands -/

/-- Past its checks, every command but SYS.RESET writes only the fields named for it. -/
theorem ruleOf_writesOnly {i : Instr} (hi : i ≠ .sysReset) (s : State) :
    OnCompletion (fun t => t = s.takeWrites i t) (ruleOf i s) := by
  cases i with
  | sysReset => exact absurd rfl hi
  | nop | crcTinit | crcSeed => rfl
  | crcByte imm8 => exact .check rfl
  | crcBlock => exact .check (.check rfl)
  | dmInit => exact .check (.check (.check rfl))
  | dmAddimg | dmAddel => exact .check (.check (.check (.check rfl)))
  | pkPrefix | pkTprefix | pkElhdr => exact emit_onCompletion fun _ _ => rfl
  | pkData => exact .check (emit_onCompletion fun _ _ => rfl)
  | pkSuffix => exact .check (.check (.check (.check (emit_onCompletion fun _ _ => rfl))))
  | upPrefix | upTprefix | upElhdr => exact loadStream_onCompletion fun _ _ => rfl
  | upData => exact .check (loadStream_onCompletion fun _ _ => rfl)
  | upSuffix => exact .check (.check (.check (.check (loadStream_onCompletion fun _ _ => rfl))))

/-- Ignored, completed or faulted, a command but SYS.RESET writes only the fields named for it. -/
theorem exec_writesOnly {i : Instr} {s t : State} (hi : i ≠ .sysReset) (h : exec i s = .next t) :
    ∃ u, t = s.takeWrites i u := by
  rcases exec_cases h with ⟨hreset, -⟩ | ⟨-, -, rfl⟩ | ⟨-, -, hok⟩ | ⟨-, -, e, -, rfl⟩
  · exact absurd hreset hi
  · exact ⟨_, (State.takeWrites_self ..).symm⟩
  · have hrule := ruleOf_writesOnly hi s
    rw [hok] at hrule
    exact ⟨t, hrule⟩
  · exact ⟨_, (State.takeWrites_latched ..).symm⟩

/-- Settles O20: SYS.RESET by its own effect, every other command from the fields named for it. -/
theorem commandsWriteOnlyTheirState : Obligations.CommandsWriteOnlyTheirState := by
  intro i s t h
  by_cases hi : i = .sysReset
  · subst hi
    cases h
    exact ⟨⟨rfl, rfl, rfl, rfl⟩, fun _ => ⟨rfl, rfl⟩, fun _ => ⟨rfl, fun _ => rfl⟩,
      fun hne => absurd rfl hne⟩
  · obtain ⟨u, rfl⟩ := exec_writesOnly hi h
    have hmem (hw : writesMem i = false) : (s.takeWrites i u).mem = s.mem := by
      simp [State.takeWrites, hw]
    refine ⟨⟨rfl, rfl, rfl, rfl⟩, fun hne => ?_, fun hw => ?_, fun _ => ?_⟩
    · simp [State.takeWrites, hne]
    · exact ⟨hmem hw, State.readByte_congr (hmem hw) rfl⟩
    · refine ⟨⟨rfl, rfl, rfl⟩, ⟨rfl, rfl⟩, ⟨rfl, rfl⟩, ?_⟩
      and_intros <;> intro hw <;> simp [State.takeWrites, hw]

end Sys2Proof.Machine
end

section
/-! PROOFS. The host's accesses to MEM (O14) and the length-0 accesses of commands (O35). -/

namespace Sys2Proof.Machine

/-! ### Host accesses (R41) -/

/-- Taking an action from the script touches no byte of MEM. -/
theorem State.readByte_begin (s : State) (rest : List HostAction) (a : Nat) :
    (s.begin rest).readByte a = s.readByte a :=
  State.readByte_congr (s.begin_mem rest) (s.begin_memEpoch rest) a

theorem State.sameOutside_writeBytes (s : State) (a : Nat) (bs : List Byte) :
    SameOutside s (s.writeBytes a bs) a bs.length :=
  fun _ hx => s.readByte_writeBytes_outside hx

theorem step_memWr {s : State} {a : Word} {bs : List Byte} {rest : List HostAction}
    (h : s.script = .memWr a bs :: rest) (hin : a.toNat + bs.length ≤ s.memBytes) :
    step s = .next ((s.begin rest).writeBytes a.toNat bs) :=
  step_of_script h (decide_eq_true hin)

theorem step_memRd {s : State} {a : Word} {n : Nat} {rest : List HostAction}
    (h : s.script = .memRd a n :: rest) (hin : a.toNat + n ≤ s.memBytes) :
    step s = .next { s with script := rest, reply := .bytes (s.readBytes a.toNat n) } :=
  step_of_script h (decide_eq_true hin)

/-- Settles O14: the two accesses as steps, then what a write does to a later read. -/
theorem hostMemoryAccess : Obligations.HostMemoryAccess := by
  intro s a rest
  constructor
  · intro bs h hin
    refine ⟨_, step_memWr h hin, rfl, State.readBytes_writeBytes .., fun x hx => ?_⟩
    rw [State.sameOutside_writeBytes _ _ _ x hx, State.readByte_begin]
  · intro n h hin
    exact ⟨_, step_memRd h hin, s.readBytes_length _ _, s.readBytes_getElem _ _⟩

/-! ### Accesses of length 0 (R46) -/

/-- An empty `Emit` checks nothing and leaves the window where it is (R50). -/
theorem emit_nil (s : State) : emit [] s = .ok s := by
  rcases emit_cases [] s with ⟨hpos, -⟩ | ⟨hpos, -⟩ | ⟨-, hemit⟩
  · cases hpos
  · cases hpos
  · simpa using hemit

/-- An empty `Take` checks nothing and leaves the window where it is (R51). -/
theorem loadStream_zero (load : List Byte → State → State) (s : State) :
    loadStream 0 load s = .ok (load [] s) := by
  rcases loadStream_cases 0 load s with ⟨hpos, -⟩ | ⟨hpos, -⟩ | ⟨-, hload⟩
  · cases hpos
  · cases hpos
  · simpa using hload

theorem ruleCrcBlock_of_len_zero {s : State} (hlen : s.blockLen = 0) (hvalid : s.tvalid = true) :
    ruleCrcBlock s = .ok s := by
  rw [ruleCrcBlock, if_neg (by simp [hvalid]), if_neg (not_not.2 (.inl hlen)), hlen]
  rfl

theorem rulePkData_of_len_zero {s : State} (hlen : s.dataLen = 0) : rulePkData s = .ok s := by
  simp [rulePkData, State.inMem, hlen, emit_nil]

theorem ruleUpData_of_len_zero {s : State} (hlen : s.dataLen = 0) : ruleUpData s = .ok s := by
  simp [ruleUpData, State.inMem, hlen, loadStream_zero]

/-- Settles O35: each of the three rules completes with the state it started from. -/
theorem zeroLengthTouchesNothing : Obligations.ZeroLengthTouchesNothing := by
  intro s herr harg
  have hlen : s.arg1.toNat = 0 := congrArg BitVec.toNat harg
  exact ⟨fun hvalid => exec_of_ok herr (ruleCrcBlock_of_len_zero hlen hvalid),
    exec_of_ok herr (rulePkData_of_len_zero hlen), exec_of_ok herr (ruleUpData_of_len_zero hlen)⟩

end Sys2Proof.Machine
end

section
/-! PROOFS. Every command keeps the stream windows in order (O19). A window moves in two ways only: a stream
command advances its position, below the limit, and SYS.RESET empties it. -/

namespace Sys2Proof.Machine

/-- Each window that is in order in `s` (R48, R49) is in order in `t`. -/
def KeepsWindowsOrdered (s t : State) : Prop :=
  (s.outWin.ordered s.memBytes → t.outWin.ordered t.memBytes)
    ∧ (s.inWin.ordered s.memBytes → t.inWin.ordered t.memBytes)

theorem KeepsWindowsOrdered.of_eq {s t : State} (hout : t.outWin = s.outWin) (hin : t.inWin = s.inWin)
    (hbytes : t.memBytes = s.memBytes) : KeepsWindowsOrdered s t := by
  rw [KeepsWindowsOrdered, hout, hin, hbytes]
  exact ⟨id, id⟩

/-- Advancing by `n` bytes that lie below the limit, or by none (R50, R51). -/
theorem Window.ordered_advance {w : Window} {memBytes n : Nat} (hw : w.ordered memBytes)
    (hfit : n = 0 ∨ w.pos.toNat + n ≤ w.lim.toNat) :
    Window.ordered { w with pos := BitVec.ofNat 32 (w.pos.toNat + n) } memBytes := by
  obtain ⟨hbase, hpos, hlim⟩ := hw
  have hnew : w.pos.toNat + n ≤ w.lim.toNat := by omega
  have hstored := toNat_ofNat_of_le hnew
  exact ⟨by simp only [hstored]; omega, by simp only [hstored]; exact hnew, hlim⟩

theorem softReset_keepsWindowsOrdered (s : State) : KeepsWindowsOrdered s (softReset s) :=
  have hzero : Window.zero.ordered s.memBytes := ⟨le_rfl, le_rfl, Nat.zero_le _⟩
  ⟨fun _ => hzero, fun _ => hzero⟩

theorem emit_keepsWindowsOrdered (bs : List Byte) (s : State) :
    OnCompletion (KeepsWindowsOrdered s) (emit bs s) := by
  rcases emit_cases bs s with ⟨-, -, hemit⟩ | ⟨-, -, -, hemit⟩ | ⟨hfit, hemit⟩ <;> rw [hemit]
  · trivial
  · trivial
  · exact ⟨fun hw => Window.ordered_advance hw (hfit.imp_right And.left), id⟩

/-- Loading what was taken must not touch the windows again. -/
theorem loadStream_keepsWindowsOrdered {s : State} {n : Nat} {load : List Byte → State → State}
    (hload : ∀ bs t, KeepsWindowsOrdered t (load bs t)) :
    OnCompletion (KeepsWindowsOrdered s) (loadStream n load s) := by
  rcases loadStream_cases n load s with ⟨-, -, h⟩ | ⟨-, -, -, h⟩ | ⟨hfit, h⟩ <;> rw [h]
  · trivial
  · trivial
  · obtain ⟨hout, hin⟩ := hload (s.readBytes s.inWin.pos.toNat n)
      { s with inWin := { s.inWin with pos := BitVec.ofNat 32 (s.inWin.pos.toNat + n) } }
    exact ⟨hout, fun hw => hin (Window.ordered_advance hw (hfit.imp_right And.left))⟩

theorem ruleOf_keepsWindowsOrdered (i : Instr) (s : State) :
    OnCompletion (KeepsWindowsOrdered s) (ruleOf i s) := by
  cases i with
  | sysReset => exact softReset_keepsWindowsOrdered s
  | nop | crcTinit | crcSeed => exact .of_eq rfl rfl rfl
  | crcByte imm8 => exact .check (.of_eq rfl rfl rfl)
  | crcBlock => exact .check (.check (.of_eq rfl rfl rfl))
  | dmInit => exact .check (.check (.check (.of_eq rfl rfl rfl)))
  | dmAddimg | dmAddel => exact .check (.check (.check (.check (.of_eq rfl rfl rfl))))
  | pkPrefix | pkTprefix | pkElhdr => exact emit_keepsWindowsOrdered _ s
  | pkData => exact .check (emit_keepsWindowsOrdered _ s)
  | pkSuffix => exact .check (.check (.check (.check (emit_keepsWindowsOrdered _ _))))
  | upPrefix | upTprefix | upElhdr => exact loadStream_keepsWindowsOrdered fun _ _ => .of_eq rfl rfl rfl
  | upData => exact .check (loadStream_keepsWindowsOrdered fun _ _ => .of_eq rfl rfl rfl)
  | upSuffix =>
    exact .check (.check (.check (.check (loadStream_keepsWindowsOrdered fun _ _ => .of_eq rfl rfl rfl))))

/-- Settles O19: reset, ignored, completed or faulted. -/
theorem commandsKeepWindowsOrdered : Obligations.CommandsKeepWindowsOrdered := by
  intro i s t h
  rcases exec_cases h with ⟨-, rfl⟩ | ⟨-, -, rfl⟩ | ⟨-, -, hok⟩ | ⟨-, -, e, -, rfl⟩
  · exact softReset_keepsWindowsOrdered s
  · exact KeepsWindowsOrdered.of_eq rfl rfl rfl
  · have hrule := ruleOf_keepsWindowsOrdered i s
    rwa [hok] at hrule
  · exact KeepsWindowsOrdered.of_eq rfl rfl rfl

end Sys2Proof.Machine
end

section
/-! PROOFS. Decoding and encoding (O1 to O3): a command word is its three fields, the encoder fills them and
the decoder reads them, and a row of the opcode table fixes the fields of its format. -/

namespace Sys2Proof

/-! ### A word and its fields (R59) -/

/-- The three fields fill the word. -/
theorem fields_append (w : Word) : zeroField w ++ immField w ++ opcodeField w = w :=
  calc zeroField w ++ immField w ++ opcodeField w
    _ = w.extractLsb' 8 24 ++ w.extractLsb' 0 8 :=
      congrArg (· ++ opcodeField w) (BitVec.extractLsb'_append_extractLsb'_eq_extractLsb' rfl)
    _ = w.extractLsb' 0 32 := BitVec.extractLsb'_append_extractLsb'_eq_extractLsb' rfl
    _ = w := BitVec.extractLsb'_eq_self

section
variable (zero : Half) (imm8 opcode : Byte)

@[simp] theorem zeroField_append : zeroField (zero ++ imm8 ++ opcode) = zero :=
  (BitVec.extractLsb'_append_eq_of_le (by decide)).trans BitVec.extractLsb'_append_eq_left

@[simp] theorem immField_append : immField (zero ++ imm8 ++ opcode) = imm8 :=
  (BitVec.extractLsb'_append_eq_of_le (by decide)).trans BitVec.extractLsb'_append_eq_right

@[simp] theorem opcodeField_append : opcodeField (zero ++ imm8 ++ opcode) = opcode :=
  BitVec.extractLsb'_append_eq_right

end

theorem eq_iff_fields (w v : Word) :
    w = v ↔ zeroField w = zeroField v ∧ immField w = immField v ∧ opcodeField w = opcodeField v := by
  constructor
  · rintro rfl
    exact ⟨rfl, rfl, rfl⟩
  · rintro ⟨hzero, himm, hop⟩
    rw [← fields_append w, hzero, himm, hop, fields_append]

theorem wordN_eq_wordI (opcode : Byte) : wordN opcode = wordI opcode 0 := by
  revert opcode; decide

@[simp] theorem zeroField_wordI (opcode imm8 : Byte) : zeroField (wordI opcode imm8) = 0 :=
  zeroField_append ..

@[simp] theorem immField_wordI (opcode imm8 : Byte) : immField (wordI opcode imm8) = imm8 :=
  immField_append ..

@[simp] theorem opcodeField_wordI (opcode imm8 : Byte) : opcodeField (wordI opcode imm8) = opcode :=
  opcodeField_append ..

theorem wordI_fields {w : Word} (hzero : zeroField w = 0) : wordI (opcodeField w) (immField w) = w := by
  simp [eq_iff_fields, hzero]

/-! ### The decoder and the encoder (R63, R66) -/

/-- A format N row answers its command for the zero immediate only, whose word is the opcode. -/
theorem encode_of_formatN {opcode imm8 : Byte} {n : Nat} {i j : Instr} (hop : opcode.toNat = n)
    (hrow : encode i = BitVec.ofNat 32 n) (h : formatN i imm8 = .ok j) : encode j = wordI opcode imm8 := by
  unfold formatN at h
  split at h
  · rename_i himm
    cases h
    rw [hrow, himm, ← hop, ← wordN_eq_wordI]
    exact BitVec.ofNat_toNat 32 opcode
  · cases h

theorem decode_wordI (opcode imm8 : Byte) : decode (wordI opcode imm8) = decodeOpcode opcode imm8 := by
  simp [decode]

theorem decode_encode (i : Instr) : decode (encode i) = .ok i := by
  cases i with
  | crcByte imm8 | dmAddimg imm8 => exact decode_wordI _ imm8
  | _ => rfl

/-- Each row of the decoder's table answers the command that the encoder gives the row's opcode. -/
theorem encode_of_decodeOpcode {opcode imm8 : Byte} {i : Instr} (h : decodeOpcode opcode imm8 = .ok i) :
    encode i = wordI opcode imm8 := by
  unfold decodeOpcode at h
  split at h
  case h_5 hop | h_8 hop =>
    cases h
    exact congrArg (wordI · imm8) (BitVec.eq_of_toNat_eq hop.symm)
  case h_20 => cases h
  all_goals exact encode_of_formatN ‹opcode.toNat = _› rfl h

theorem decode_eq_ok_iff {w : Word} {i : Instr} : decode w = .ok i ↔ encode i = w := by
  constructor
  · intro h
    unfold decode at h
    split at h
    · cases h
    · rename_i hzero
      rw [encode_of_decodeOpcode h, wordI_fields (not_not.1 hzero)]
  · rintro rfl
    exact decode_encode i

/-- Settles O1: decoding inverts the encoding, and every command is well formed. -/
theorem decodeEncodeAgree : Obligations.DecodeEncodeAgree := by
  intro w i
  have hwf : i.wf = true := by cases i <;> rfl
  rw [decode_eq_ok_iff, and_iff_right hwf]

theorem ne_ok_of_decode_eq_error {w : Word} {r : Reject} (h : decode w = .error r) (i : Instr) :
    decode w ≠ .ok i := by
  rw [h]
  nofun

/-- Settles O2: the legal words are encodings; the illegal ones are rejected for the reason written. -/
theorem workedEncodings : Obligations.WorkedEncodings :=
  ⟨decode_encode .crcSeed, decode_encode (.crcByte 0x31), decode_encode (.crcByte 0x00),
    decode_encode (.dmAddimg 0x00), decode_encode (.dmAddimg 0x02), decode_encode .pkSuffix,
    ne_ok_of_decode_eq_error (r := .nonzeroImm) rfl, ne_ok_of_decode_eq_error (r := .reservedBits) rfl,
    ne_ok_of_decode_eq_error (r := .unknownOpcode) rfl, ne_ok_of_decode_eq_error (r := .reservedBits) rfl⟩

/-! ### The rows of the opcode table (R68) -/

/-- The command with its immediate, where it has one, replaced. -/
def Instr.withImm : Instr → Byte → Instr
  | .crcByte _, imm8 => .crcByte imm8
  | .dmAddimg _, imm8 => .dmAddimg imm8
  | i, _ => i

@[simp] theorem tableRow_withImm (i : Instr) (imm8 : Byte) : tableRow (i.withImm imm8) = tableRow i := by
  cases i <;> rfl

/-- The `imm8` field of a command's word is the command's immediate. -/
theorem withImm_immField_encode (i : Instr) : i.withImm (immField (encode i)) = i := by
  cases i with
  | crcByte imm8 | dmAddimg imm8 => exact congrArg _ (immField_wordI _ imm8)
  | _ => rfl

/-- The mask of format N keeps the whole word. -/
theorem and_maskN_eq_iff {w pattern : Word} : w &&& 0xFFFFFFFF = pattern ↔ pattern = w := by
  rw [show w &&& 0xFFFFFFFF = w from BitVec.and_allOnes, eq_comm]

/-- The mask of format I clears the immediate. -/
theorem and_maskI (w : Word) : w &&& 0xFFFF00FF = zeroField w ++ (0 : Byte) ++ opcodeField w := by
  calc w &&& 0xFFFF00FF
    _ = (zeroField w ++ immField w ++ opcodeField w)
        &&& (BitVec.allOnes 16 ++ 0#8 ++ BitVec.allOnes 8) := by rw [fields_append]; rfl
    _ = zeroField w ++ 0#8 ++ opcodeField w := by
      simp only [BitVec.and_append, BitVec.and_allOnes, BitVec.and_zero]

theorem and_maskI_eq_iff {w : Word} {opcode : Byte} :
    w &&& 0xFFFF00FF = wordN opcode ↔ wordI opcode (immField w) = w := by
  rw [and_maskI, wordN_eq_wordI, eq_iff_fields, eq_iff_fields]
  simp [eq_comm]

/-- A word matches a command's row exactly when it is that command's word but for the immediate. -/
theorem matches_tableRow_iff {w : Word} {i : Instr} :
    w &&& (tableRow i).mask = (tableRow i).pattern ↔ decode w = .ok (i.withImm (immField w)) := by
  rw [decode_eq_ok_iff]
  cases i with
  | crcByte imm8 => exact and_maskI_eq_iff (opcode := 0x12)
  | dmAddimg imm8 => exact and_maskI_eq_iff (opcode := 0x21)
  | _ => exact and_maskN_eq_iff

theorem matches_tableRow_of_decode {w : Word} {i : Instr} (h : decode w = .ok i) :
    w &&& (tableRow i).mask = (tableRow i).pattern := by
  obtain rfl := decode_eq_ok_iff.1 h
  rw [matches_tableRow_iff, withImm_immField_encode, h]

/-- A format I command carries the `imm8` field of its word. -/
theorem immField_of_decode {w : Word} {command : Byte → Instr} {opcode imm8 : Byte}
    (hcmd : encode (command imm8) = wordI opcode imm8) (h : decode w = .ok (command imm8)) :
    imm8 = immField w := by
  rw [← decode_eq_ok_iff.1 h, hcmd, immField_wordI]

/-- Settles O3: the rows' matches are the decoder's answers, so uniqueness and illegality follow. -/
theorem legalWordsAreTheTableRows : Obligations.LegalWordsAreTheTableRows := by
  intro w
  refine ⟨fun i => matches_tableRow_of_decode, fun i hi => ?_, fun i j hi hj => ?_, fun imm8 h => ?_,
    fun i => ?_, fun hnone => ?_⟩
  · exact ⟨_, matches_tableRow_iff.1 hi, tableRow_withImm ..⟩
  · have hsame := (matches_tableRow_iff.1 hi).symm.trans (matches_tableRow_iff.1 hj)
    rw [← tableRow_withImm i (immField w), Except.ok.inj hsame, tableRow_withImm]
  · rcases h with h | h
    · exact immField_of_decode (command := .crcByte) rfl h
    · exact immField_of_decode (command := .dmAddimg) rfl h
  · cases i <;> rfl
  · cases h : decode w with
    | ok i => exact absurd (matches_tableRow_of_decode h) (hnone i)
    | error r => exact ⟨r, rfl⟩

end Sys2Proof
end

section
/-! PROOFS. What a write to CMD does: a legal word runs its command (O5), an illegal one raises IllegalCmd
when no fault is latched (O4). -/

namespace Sys2Proof.Machine

/-- A write to CMD (R131). -/
theorem step_wr_cmd {s : State} {w : Word} {rest : List HostAction} (h : s.script = .wr 0x00 w :: rest) :
    step s = commandWrite w (s.begin rest) := by
  rw [step_of_script h rfl]
  rfl

theorem commandWrite_of_decode {w : Word} {i : Instr} (h : decode w = .ok i) (s : State) :
    commandWrite w s = exec i s := by
  simp only [commandWrite, h]

theorem commandWrite_of_illegal {w : Word} (h : ∀ i, decode w ≠ .ok i) (s : State) :
    commandWrite w s = .next (raise ⟨.illegalCmd, w⟩ s) := by
  rcases commandWrite_cases w s with ⟨i, hi, -⟩ | ⟨-, -, hraise⟩
  · exact absurd hi (h i)
  · exact hraise

/-- Settles O5: the step takes the action and the write decodes its word. -/
theorem stepRunsTheDecodedCommand : Obligations.StepRunsTheDecodedCommand := by
  intro s w rest i hscript hdecode _
  rw [step_wr_cmd hscript, commandWrite_of_decode hdecode]
  rfl

/-! ### Illegal words (R62, R64) -/

theorem zeroField_encode (i : Instr) : zeroField (encode i) = 0 := by
  cases i with
  | crcByte imm8 => exact Laws.ZeroField.crcByte imm8
  | dmAddimg imm8 => exact Laws.ZeroField.dmAddimg imm8
  | _ => rfl

/-- The 19 opcodes of R66. -/
theorem opcodeField_encode_mem (i : Instr) : (opcodeField (encode i)).toNat ∈
    [0x00, 0x01, 0x10, 0x11, 0x12, 0x13, 0x20, 0x21, 0x22, 0x30, 0x31, 0x32, 0x33, 0x34, 0x40, 0x41, 0x42,
      0x43, 0x44] := by
  cases i with
  | crcByte imm8 | dmAddimg imm8 => simp [encode]
  | _ => decide

/-- Only the two format I opcodes carry an immediate. -/
theorem immField_encode_eq_zero {i : Instr} (hbyte : (opcodeField (encode i)).toNat ≠ 0x12)
    (haddimg : (opcodeField (encode i)).toNat ≠ 0x21) : immField (encode i) = 0 := by
  cases i with
  | crcByte imm8 => simp [encode] at hbyte
  | dmAddimg imm8 => simp [encode] at haddimg
  | _ => rfl

/-- Settles O4: no command's word is of one of the three illegal kinds, and an illegal word raises. -/
theorem illegalWordsRaiseIllegalCmd : Obligations.IllegalWordsRaiseIllegalCmd := by
  intro s w rest hscript herr hill
  have hillegal : ∀ i, decode w ≠ .ok i := by
    intro i hi
    obtain rfl := decode_eq_ok_iff.1 hi
    have hop := opcodeField_encode_mem i
    simp only [opcodeField, List.mem_cons, List.not_mem_nil, or_false] at hop
    rcases hill with hzero | hgap | hgap | hgap | hgap | hgap | ⟨himm, hbyte, haddimg⟩
    exacts [hzero (zeroField_encode i), by omega, by omega, by omega, by omega, by omega,
      himm (immField_encode_eq_zero hbyte haddimg)]
  rw [step_wr_cmd hscript, commandWrite_of_illegal hillegal, raise_of_clear (s := s.begin rest) herr]
  rfl

end Sys2Proof.Machine
end

section
/-! PROOFS. The byte layouts. Each `pack` and `unpack` pair is inverse both ways (O50), because the slices
that `unpack` reads are the pieces that `pack` lays end to end; the sizes of a file follow from those of its
pieces (O52). -/

namespace Sys2Proof.Machine

/-! ### Slices of a byte sequence (R10) -/

section
variable {s t : List Byte} {i j k : Nat}

@[simp] theorem slice_of_length_le (h : s.length ≤ j) : slice s 0 j = s := by
  simpa [slice] using h

@[simp] theorem slice_append_left (h : j ≤ s.length) : slice (s ++ t) i j = slice s i j := by
  by_cases hi : i ≤ s.length
  · rw [slice, slice, List.drop_append_of_le_length hi, List.take_append_of_le_length]
    rw [List.length_drop]
    omega
  · have hlen : j - i = 0 := by omega
    simp [slice, hlen]

@[simp] theorem slice_append_right (h : s.length ≤ i) :
    slice (s ++ t) i j = slice t (i - s.length) (j - s.length) := by
  rw [slice, slice, List.drop_append, List.drop_eq_nil_of_le h, List.nil_append]
  congr 1
  omega

@[simp] theorem byteAt_append_left (h : i < s.length) : byteAt (s ++ t) i = byteAt s i :=
  List.getD_append s t 0 i h

@[simp] theorem byteAt_append_right (h : s.length ≤ i) : byteAt (s ++ t) i = byteAt t (i - s.length) :=
  List.getD_append_right s t 0 i h

@[simp] theorem byteAt_singleton (b : Byte) : byteAt [b] 0 = b := rfl

/-- Neighbouring slices join. -/
theorem slice_append_slice (hij : i ≤ j) (hjk : j ≤ k) : slice s i j ++ slice s j k = slice s i k := by
  have hsum : k - i = (j - i) + (k - j) := by omega
  rw [slice, slice, slice, hsum, List.take_add, List.drop_drop, Nat.add_sub_cancel' hij]

theorem slice_length (h : j ≤ s.length) : (slice s i j).length = j - i := by
  rw [slice, List.length_take, List.length_drop]
  omega

theorem singleton_byteAt (h : i < s.length) : [byteAt s i] = slice s i (i + 1) := by
  rw [slice, Nat.add_sub_cancel_left, List.take_one_drop_eq_of_lt_length h, byteAt,
    List.getD_eq_getElem s 0 h]
  rfl

theorem byteArray_toList {n : Nat} (h : s.length = n) : (byteArray n s).toList = s := by
  subst h
  simp [byteArray, Vector.toList]

@[simp] theorem byteArray_of_toList {n : Nat} (v : Vector Byte n) : byteArray n v.toList = v :=
  Vector.toList_inj.1 (byteArray_toList v.length_toList)

end

/-! ### Pack and unpack (R82)

Unpacking packed registers: the pieces before and after a field are taken off until the field's own is left.
Packing unpacked bytes: each piece is the slice its field was read from, and neighbouring slices join. -/

theorem unpackPrefix_packPrefix (r : PrefixRegs) : unpackPrefix (packPrefix r) = r := by
  simp (disch := grind [Vector.length_toList, le32_length]) [unpackPrefix, packPrefix, -List.append_assoc]

theorem unpackTprefix_packTprefix (r : TargetRegs) : unpackTprefix (packTprefix r) = r := by
  simp (disch := grind [Vector.length_toList, le32_length]) [unpackTprefix, packTprefix, -List.append_assoc]

theorem unpackElhdr_packElhdr (r : ElementRegs) : unpackElhdr (packElhdr r) = r := by
  simp (disch := grind [le32_length]) [unpackElhdr, packElhdr, -List.append_assoc]

theorem unpackSuffix_packSuffix (r : SuffixRegs) : unpackSuffix (packSuffix r) = r := by
  simp (disch := grind [Vector.length_toList, le16_length, le32_length]) [unpackSuffix, packSuffix,
    packSuffix12, -List.append_assoc]

theorem packPrefix_unpackPrefix {s : List Byte} (h : s.length = 11) : packPrefix (unpackPrefix s) = s := by
  rw [packPrefix, unpackPrefix]
  simp (disch := simp [slice_length, h]) only [byteArray_toList, singleton_byteAt, le32_unLe32,
    slice_append_slice, slice_of_length_le]

theorem packTprefix_unpackTprefix {s : List Byte} (h : s.length = 271) :
    packTprefix (unpackTprefix s) = s := by
  rw [packTprefix, unpackTprefix]
  simp (disch := simp [slice_length, h]) only [byteArray_toList, singleton_byteAt, le32_unLe32,
    slice_append_slice, slice_of_length_le]

theorem packElhdr_unpackElhdr {s : List Byte} (h : s.length = 8) : packElhdr (unpackElhdr s) = s := by
  rw [packElhdr, unpackElhdr]
  simp (disch := simp [slice_length, h]) only [le32_unLe32, slice_append_slice, slice_of_length_le]

theorem packSuffix_unpackSuffix {s : List Byte} (h : s.length = 16) : packSuffix (unpackSuffix s) = s := by
  rw [packSuffix, packSuffix12, unpackSuffix]
  simp (disch := simp [slice_length, h]) only [byteArray_toList, singleton_byteAt, le16_unLe16, le32_unLe32,
    slice_append_slice, slice_of_length_le]

/-- Settles O50, one structure at a time. -/
theorem packAndUnpackAreInverse : Obligations.PackAndUnpackAreInverse :=
  ⟨unpackPrefix_packPrefix, unpackTprefix_packTprefix, unpackElhdr_packElhdr, unpackSuffix_packSuffix,
    fun _ => packPrefix_unpackPrefix, fun _ => packTprefix_unpackTprefix, fun _ => packElhdr_unpackElhdr,
    fun _ => packSuffix_unpackSuffix⟩

/-! ### A whole file (R74, R80, R81) -/

section
variable {f : DfuFile} (hf : f.wellFormed)
include hf

theorem DfuFile.wellFormed.image_length {m : DfuImage} (hm : m ∈ f.images) :
    m.bytes.length = 271 + m.hdr.size.toNat := by
  have helements : m.elements.map (fun e => e.bytes.length)
      = m.elements.map (fun e => e.hdr.size.toNat + 8) := by
    apply List.map_congr_left
    intro e he
    rw [DfuElement.bytes, List.length_append, packElhdr_length, hf.payload m hm e he, Nat.add_comm]
  rw [DfuImage.bytes, List.length_append, packTprefix_length, List.length_flatten, List.map_map,
    hf.target_size m hm, ← helements]
  rfl

theorem DfuFile.wellFormed.body_length : f.body.length = f.pfx.size.toNat := by
  have himages : f.images.map (fun m => m.bytes.length)
      = f.images.map (fun m => 271 + m.hdr.size.toNat) :=
    List.map_congr_left fun m => hf.image_length
  rw [DfuFile.body, List.length_append, packPrefix_length, List.length_flatten, List.map_map,
    hf.dfu_image_size, ← himages]
  rfl

end

/-- The suffix ends with its CRC field (R78). -/
theorem DfuFile.bytes_eq (f : DfuFile) : f.bytes = (f.body ++ packSuffix12 f.sfx) ++ le32 f.sfx.crc :=
  (List.append_assoc ..).symm

/-- Settles O52: the lengths add up, and the last four bytes are the CRC field. -/
theorem wellFormedFileSizes : Obligations.WellFormedFileSizes := by
  intro f hf
  have hcut : f.bytes.length - 4 = (f.body ++ packSuffix12 f.sfx).length := by
    rw [f.bytes_eq, List.length_append, le32_length, Nat.add_sub_cancel]
  refine ⟨hf.body_length, ?_, ?_⟩
  · rw [DfuFile.bytes, List.length_append, hf.body_length, packSuffix_length]
  · rw [hcut, f.bytes_eq, List.drop_left, List.take_left, ← hf.crc]

end Sys2Proof.Machine
end

section
/-! PROOFS. The CRC function (O27 to O29). A round is linear over xor, shifts a word whose low bit is clear,
and loses nothing: its top bit is the bit it shifts out. -/

namespace Sys2Proof.Machine

/-! ### One round and `n` rounds (R84) -/

theorem crcRound_eq (x : Word) : crcRound x = (x >>> 1) ^^^ if x.getLsbD 0 then crcPoly else 0#32 := by
  unfold crcRound
  cases x.getLsbD 0 <;> simp

theorem crcRound_of_low_clear {x : Word} (h : x.getLsbD 0 = false) : crcRound x = x >>> 1 := by
  rw [crcRound, h, if_neg Bool.false_ne_true]

/-- The polynomial comes in by the low bit alone, and cancels when both words bring it in. -/
theorem crcRound_xor (x y : Word) : crcRound (x ^^^ y) = crcRound x ^^^ crcRound y := by
  have hpoly (p q : Bool) : (if p ^^ q then crcPoly else 0#32)
      = (if p then crcPoly else 0#32) ^^^ (if q then crcPoly else 0#32) := by
    cases p <;> cases q <;> simp
  simp only [crcRound_eq, BitVec.getLsbD_xor, hpoly, BitVec.ushiftRight_xor_distrib]
  ac_rfl

theorem crcRounds_xor (n : Nat) (x y : Word) :
    crcRounds n (x ^^^ y) = crcRounds n x ^^^ crcRounds n y := by
  induction n generalizing x y with
  | zero => rfl
  | succ n ih => rw [crcRounds, crcRounds, crcRounds, crcRound_xor, ih]

/-- While only clear bits come out at the bottom, a round is a shift. -/
theorem crcRounds_of_low_clear {n : Nat} {x : Word} (h : ∀ i < n, x.getLsbD i = false) :
    crcRounds n x = x >>> n := by
  induction n generalizing x with
  | zero => rfl
  | succ n ih =>
    have hshifted : ∀ i < n, (x >>> 1).getLsbD i = false := by
      intro i hi
      rw [BitVec.getLsbD_ushiftRight]
      exact h (1 + i) (by omega)
    rw [crcRounds, crcRound_of_low_clear (h 0 n.succ_pos), ih hshifted, ← BitVec.shiftRight_add,
      Nat.add_comm]

/-- The polynomial's top bit is set: it shows in the result whether the polynomial came in. -/
theorem getLsbD_top_crcRound (x : Word) : (crcRound x).getLsbD 31 = x.getLsbD 0 := by
  have htop : (x >>> 1).getLsbD 31 = false := by simp
  rw [crcRound_eq, BitVec.getLsbD_xor, htop]
  cases x.getLsbD 0 <;> rfl

theorem crcRound_injective : Function.Injective crcRound := by
  intro x y h
  have hlow : x.getLsbD 0 = y.getLsbD 0 := by
    rw [← getLsbD_top_crcRound, ← getLsbD_top_crcRound, h]
  have hshift : x >>> 1 = y >>> 1 := by
    rw [crcRound_eq, crcRound_eq, hlow] at h
    exact (BitVec.xor_left_inj _).1 h
  apply BitVec.eq_of_getLsbD_eq
  intro i _
  cases i with
  | zero => exact hlow
  | succ i => simpa [Nat.add_comm] using congrArg (BitVec.getLsbD · i) hshift

theorem crcRounds_injective (n : Nat) : Function.Injective (crcRounds n) := by
  induction n with
  | zero => exact Function.injective_id
  | succ n ih => exact ih.comp crcRound_injective

/-! ### The table-driven step (R86) -/

/-- A word is its low byte and the rest. -/
theorem low_byte_xor_high (x : Word) :
    (x.extractLsb' 0 8).setWidth 32 ^^^ ((x >>> 8) <<< 8) = x := by
  apply BitVec.eq_of_getLsbD_eq
  intro i hi
  by_cases hlow : i < 8
  · simp [hlow, hi]
  · have hsum : 8 + (i - 8) = i := by omega
    simp [hlow, hi, hsum]

theorem crcStep_zero (b : Byte) : crcStep 0 b = crcRounds 8 (b.setWidth 32) :=
  congrArg (crcRounds 8) BitVec.zero_xor

/-- Eight rounds look the low byte up and shift the rest. -/
theorem crcRounds_eight (x : Word) :
    crcRounds 8 x = crcStep 0 (x.extractLsb' 0 8) ^^^ (x >>> 8) := by
  have hhigh : crcRounds 8 ((x >>> 8) <<< 8) = x >>> 8 := by
    rw [crcRounds_of_low_clear fun i hi => by simp [hi]]
    bv_omega
  calc crcRounds 8 x
    _ = crcRounds 8 ((x.extractLsb' 0 8).setWidth 32 ^^^ ((x >>> 8) <<< 8)) := by rw [low_byte_xor_high]
    _ = crcRounds 8 ((x.extractLsb' 0 8).setWidth 32) ^^^ (x >>> 8) := by rw [crcRounds_xor, hhigh]
    _ = crcStep 0 (x.extractLsb' 0 8) ^^^ (x >>> 8) := by rw [crcStep_zero]

theorem xor_byte_shiftRight_eight (a : Word) (b : Byte) : (a ^^^ b.setWidth 32) >>> 8 = a >>> 8 := by
  have hb : b.setWidth 32 >>> 8 = 0#32 := by bv_omega
  rw [BitVec.ushiftRight_xor_distrib, hb, BitVec.xor_zero]

/-- Settles O27: the entry looked up is that of the low byte of the accumulator and the data byte xored. -/
theorem tableStepIsBitSerialStep : Obligations.TableStepIsBitSerialStep := by
  intro tbl a b htbl
  have hentry := htbl ((a ^^^ b.setWidth 32).extractLsb' 0 8).toFin
  calc crcStepTbl tbl a b
    _ = crcStep 0 ((a ^^^ b.setWidth 32).extractLsb' 0 8) ^^^ (a >>> 8) :=
      congrArg (· ^^^ (a >>> 8)) (hentry.trans (congrArg _ (BitVec.ofNat_toNat ..)))
    _ = crcStep a b := by rw [← xor_byte_shiftRight_eight a b, ← crcRounds_eight, crcStep]

/-- With the table of R85 a command computes the bit-serial CRC (R90). -/
theorem crcStepTbl_crcTable : crcStepTbl crcTable = crcStep := by
  funext a b
  exact tableStepIsBitSerialStep crcTable a b fun i => crcTable_getElem i i.isLt

theorem crcUpdateTbl_crcTable : crcUpdateTbl crcTable = crcUpdate := by
  funext a s
  rw [crcUpdateTbl, crcStepTbl_crcTable, crcUpdate]

/-! ### The fold over a byte sequence (R87 to R89) -/

theorem crcUpdate_append (a : Word) (s t : List Byte) :
    crcUpdate a (s ++ t) = crcUpdate (crcUpdate a s) t :=
  List.foldl_append

/-- Settles O28: the CRC is a fold, and a fold over an appended sequence goes on from where it stood. -/
theorem crcChaining : Obligations.CrcChaining := crcUpdate_append

theorem crcStep_injective_acc (b : Byte) : Function.Injective (crcStep · b) :=
  fun _ _ h => (BitVec.xor_left_inj _).1 (crcRounds_injective 8 h)

theorem crcStep_injective_byte (a : Word) : Function.Injective (crcStep a) := by
  intro b c h
  have hwide : b.setWidth 32 = c.setWidth 32 := (BitVec.xor_right_inj _).1 (crcRounds_injective 8 h)
  simpa using congrArg (BitVec.setWidth 8) hwide

/-- Different accumulators stay different under the same bytes. -/
theorem crcUpdate_injective_acc (s : List Byte) : Function.Injective (crcUpdate · s) := by
  induction s with
  | nil => exact Function.injective_id
  | cons b s ih => exact ih.comp (crcStep_injective_acc b)

/-- Settles O29: the changed byte makes the accumulators differ, and the bytes after it keep them so. -/
theorem singleByteChangeChangesCrc : Obligations.SingleByteChangeChangesCrc := by
  intro a before after b c hne heq
  simp only [crcUpdate_append, crcUpdate_cons, crcUpdate_nil] at heq
  exact hne (crcStep_injective_byte _ (crcUpdate_injective_acc after heq))

end Sys2Proof.Machine
end

section
/-! PROOFS. The CRC commands (O31 to O34): the answer of each rule, past its checks and at them. -/

namespace Sys2Proof

/-- A format I word as a number (R59). -/
theorem ofNat_eq_wordI (opcode imm8 : Byte) :
    BitVec.ofNat 32 (opcode.toNat + 256 * imm8.toNat) = wordI opcode imm8 := by
  have := opcode.isLt
  have := imm8.isLt
  apply BitVec.eq_of_toNat_eq
  rw [wordI, BitVec.toNat_append, BitVec.toNat_append, ← Nat.shiftLeft_add_eq_or_of_lt opcode.isLt]
  simp [Nat.shiftLeft_eq]
  omega

end Sys2Proof

namespace Sys2Proof.Machine

/-! ### CRC.TINIT and CRC.SEED (R91, R92) -/

/-- Settles O31: the state after the rule, which the rule leaves as it is. -/
theorem crcTinitBuildsTheTable : Obligations.CrcTinitBuildsTheTable := by
  refine ⟨decode_encode .crcTinit, fun s herr => ?_, fun s herr => exec_of_latched (by decide) herr⟩
  refine ⟨{ s with tbl := crcTable, tvalid := true }, exec_of_ok herr rfl, rfl,
    fun i => crcTable_getElem i i.isLt, rfl, ?_, exec_of_ok herr rfl⟩
  rw [State.readNumber_status, State.status_getLsbD_one]

/-- Settles O32: the rule reads no table, and 0x08 is the number of ACC. -/
theorem crcSeedLoadsTheSeed : Obligations.CrcSeedLoadsTheSeed := by
  refine ⟨decode_encode .crcSeed, fun s herr => ⟨exec_of_ok herr rfl, ?_⟩⟩
  rw [State.writeNumber_of_regAt (r := .acc) rfl]
  exact exec_of_ok herr rfl

/-! ### CRC.BYTE (R93) -/

theorem ruleCrcByte_of_built {s : State} (hs : s.tableBuilt) (imm8 : Byte) :
    ruleCrcByte imm8 s = .ok { s with acc := crcStep s.acc imm8 } := by
  obtain ⟨hvalid, htbl⟩ := hs
  rw [ruleCrcByte, if_neg (by simp [hvalid]), htbl, crcStepTbl_crcTable]

theorem ruleCrcByte_of_not_valid {s : State} (hvalid : s.tvalid = false) (imm8 : Byte) :
    ruleCrcByte imm8 s = .error ⟨.tableNotReady, 0⟩ := if_pos hvalid

/-- Settles O33: the word is the command's, and the rule answers as R93 says in both cases. -/
theorem crcByteUpdatesAcc : Obligations.CrcByteUpdatesAcc := by
  refine fun imm8 => ⟨?_, fun s herr hs => exec_of_ok herr (ruleCrcByte_of_built hs imm8),
    fun s herr hvalid => exec_of_error herr (ruleCrcByte_of_not_valid hvalid imm8)⟩
  exact (congrArg decode (ofNat_eq_wordI 0x12 imm8)).trans (decode_encode (.crcByte imm8))

/-! ### CRC.BLOCK (R94) -/

theorem ruleCrcBlock_of_built {s : State} (hs : s.tableBuilt) (hin : s.inMem s.blockAddr.toNat s.blockLen) :
    ruleCrcBlock s
      = .ok { s with acc := crcUpdate s.acc (s.readBytes s.blockAddr.toNat s.blockLen) } := by
  obtain ⟨hvalid, htbl⟩ := hs
  rw [ruleCrcBlock, if_neg (by simp [hvalid]), if_neg (not_not.2 hin), htbl, crcUpdateTbl_crcTable]

theorem ruleCrcBlock_of_not_valid {s : State} (hvalid : s.tvalid = false) :
    ruleCrcBlock s = .error ⟨.tableNotReady, 0⟩ := if_pos hvalid

theorem ruleCrcBlock_of_not_inMem {s : State} (hvalid : s.tvalid = true)
    (hout : ¬ s.inMem s.blockAddr.toNat s.blockLen) :
    ruleCrcBlock s = .error ⟨.bufRange, s.blockAddr⟩ := by
  rw [ruleCrcBlock, if_neg (by simp [hvalid]), if_pos hout]

/-- Settles O34: the two checks in their order, then the update. -/
theorem crcBlockUpdatesAcc : Obligations.CrcBlockUpdatesAcc := by
  refine ⟨decode_encode .crcBlock, fun s herr => ⟨fun hs hin => ?_, fun hvalid => ?_,
    fun hvalid hpos hbeyond => ?_⟩⟩
  · exact exec_of_ok herr (ruleCrcBlock_of_built hs hin)
  · exact exec_of_error herr (ruleCrcBlock_of_not_valid hvalid)
  · have hout : ¬ s.inMem s.arg0.toNat s.arg1.toNat := not_or.2 ⟨hpos.ne', hbeyond.not_ge⟩
    exact exec_of_error herr (ruleCrcBlock_of_not_inMem hvalid hout)

end Sys2Proof.Machine
end

section
/-! PROOFS. The document-model commands (O36 to O39): the state each leaves past its checks, its faults in
their order, and the closed form of the counts and sizes by induction over the run (R101). -/

namespace Sys2Proof.Machine

/-! ### Checks in front of a rule -/

theorem check_eq_ok_iff {c : Prop} [Decidable c] {e : Trap} {r : Except Trap State} {t : State} :
    (if c then .error e else r) = .ok t ↔ ¬ c ∧ r = .ok t := by
  split <;> simp [*]

/-- A command that ends with no fault latched has completed its rule. -/
theorem ruleOf_ok_of_exec {i : Instr} {s t : State} (hi : i ≠ .sysReset) (h : exec i s = .next t)
    (ht : t.err = 0) : ruleOf i s = .ok t := by
  rcases exec_cases h with ⟨hreset, -⟩ | ⟨-, hlatched, rfl⟩ | ⟨-, -, hok⟩ | ⟨-, -, e, -, rfl⟩
  · exact absurd hreset hi
  · exact absurd ht hlatched
  · exact hok
  · exact absurd ht (faultCode_ne_zero e.kind)

/-- A sum that is at most the largest 32-bit value is stored as it is (R101). -/
theorem toNat_ofNat_of_le_maxField32 {n : Nat} (h : n ≤ maxField32) : (BitVec.ofNat 32 n).toNat = n :=
  toNat_ofNat_of_le (lim := 0xFFFFFFFF#32) h

/-! ### DM.INIT (R98) -/

/-- The state DM.INIT leaves past its checks. -/
def State.emptyDocument (s : State) : State :=
  { s with
    pfx := { sig := byteArray 5 sigDfuSe, ver := 1, size := 11, tcnt := 0 }
    sfx :=
      { dev := s.initDevice.setWidth 16, prod := s.initProduct.setWidth 16
        vend := s.initVendor.setWidth 16, dfu := 0x011A, sig := byteArray 3 sigUfd, len := 16, crc := 0 }
    tgt :=
      { sig := byteArray 6 (List.replicate 6 0), alt := 0, named := 0
        name := byteArray 255 (List.replicate 255 0), size := 0, nelem := 0 }
    el := .zero }

theorem ruleDmInit_eq_ok_iff {s t : State} : ruleDmInit s = .ok t ↔
    (s.arg0.toNat ≤ 0xFFFF ∧ s.arg1.toNat ≤ 0xFFFF ∧ s.arg2.toNat ≤ 0xFFFF)
      ∧ s.emptyDocument = t := by
  simp only [ruleDmInit, check_eq_ok_iff, Except.ok.injEq, not_lt, gt_iff_lt, and_assoc]
  rfl

/-- An identifier that fits 16 bits is stored as it is. -/
theorem toNat_setWidth_of_le {x : Word} (h : x.toNat ≤ 0xFFFF) : (x.setWidth 16).toNat = x.toNat :=
  (BitVec.toNat_setWidth 16 x).trans (Nat.mod_eq_of_lt (Nat.lt_succ_of_le h))

theorem byteArray_replicate_zero {n : Nat} (i : Fin n) : (byteArray n (List.replicate n 0))[i] = 0 := by
  rw [Fin.getElem_fin, byteArray_getElem, byteAt, List.getD_replicate _ i.isLt]

/-- Settles O36: the fields of the state past the checks, and the three checks in their order. -/
theorem dmInitStartsAnEmptyDocument : Obligations.DmInitStartsAnEmptyDocument := by
  refine ⟨decode_encode .dmInit, fun s herr => ⟨fun hdev hvend hprod => ?_, fun hdev => ?_,
    fun hdev hvend => ?_, fun hdev hvend hprod => ?_⟩⟩
  · exact ⟨s.emptyDocument, exec_of_ok herr (ruleDmInit_eq_ok_iff.2 ⟨⟨hdev, hvend, hprod⟩, rfl⟩), rfl,
      ⟨byteArray_toList rfl, rfl, rfl, rfl⟩,
      ⟨toNat_setWidth_of_le hdev, toNat_setWidth_of_le hprod, toNat_setWidth_of_le hvend⟩,
      ⟨rfl, byteArray_toList rfl, rfl, rfl⟩,
      ⟨byteArray_replicate_zero, rfl, rfl, byteArray_replicate_zero, rfl, rfl⟩, rfl, rfl⟩
  · exact exec_of_error herr (if_pos hdev)
  · exact exec_of_error herr ((if_neg hdev.not_gt).trans (if_pos hvend))
  · exact exec_of_error herr ((if_neg hdev.not_gt).trans ((if_neg hvend.not_gt).trans (if_pos hprod)))

/-! ### DM.ADDIMG (R99) -/

/-- The state DM.ADDIMG leaves past its checks. -/
def State.withImage (s : State) (alt : Byte) : State :=
  { s with
    tgt :=
      { sig := byteArray 6 sigTarget, alt := alt, named := if 1 ≤ s.nameLen.toNat then 1 else 0
        name := byteArray 255 (s.readBytes s.nameAddr.toNat s.nameLen.toNat), size := 0, nelem := 0 }
    pfx := { s.pfx with
      tcnt := BitVec.ofNat 8 (s.pfx.tcnt.toNat + 1)
      size := BitVec.ofNat 32 (s.pfx.size.toNat + tprefixLen) } }

/-- What DM.ADDIMG checks: a name of at most 255 bytes inside MEM, and room for the image in both fields. -/
structure State.ImageFits (s : State) : Prop where
  nameLen : s.arg1.toNat ≤ 255
  count : s.pfx.tcnt.toNat ≠ 255
  size : s.pfx.size.toNat + tprefixLen ≤ maxField32
  name : s.inMem s.arg0.toNat s.arg1.toNat

theorem ruleDmAddimg_eq_ok_iff {alt : Byte} {s t : State} :
    ruleDmAddimg alt s = .ok t ↔ s.ImageFits ∧ s.withImage alt = t := by
  simp only [ruleDmAddimg, check_eq_ok_iff, Except.ok.injEq, not_lt, not_not, gt_iff_lt]
  exact ⟨fun ⟨hlen, hcount, hsize, hname, ht⟩ => ⟨⟨hlen, hcount, hsize, hname⟩, ht⟩,
    fun ⟨⟨hlen, hcount, hsize, hname⟩, ht⟩ => ⟨hlen, hcount, hsize, hname, ht⟩⟩

section
variable {s : State} (h : s.ImageFits) (alt : Byte)
include h

theorem State.ImageFits.withImage_tcnt :
    (s.withImage alt).pfx.tcnt.toNat = s.pfx.tcnt.toNat + 1 := by
  have := s.pfx.tcnt.isLt
  have := h.count
  exact (BitVec.toNat_ofNat ..).trans (Nat.mod_eq_of_lt (by omega))

theorem State.ImageFits.withImage_size :
    (s.withImage alt).pfx.size.toNat = s.pfx.size.toNat + 271 :=
  toNat_ofNat_of_le_maxField32 h.size

end

/-- A byte of a sequence read from MEM; past its end there is none (R99's null padding). -/
theorem byteAt_readBytes (s : State) (a n i : Nat) :
    byteAt (s.readBytes a n) i = if i < n then s.readByte (a + i) else 0 := by
  have hlen : (s.readBytes a n).length = n := by simp [State.readBytes]
  split
  · rw [byteAt, List.getD_eq_getElem _ _ (by omega), State.readBytes_getElem]
  · exact List.getD_eq_default _ _ (by omega)

/-- Settles O37: the fields of the state past the checks, and the four checks in their order. -/
theorem dmAddimgStartsATarget : Obligations.DmAddimgStartsATarget := by
  refine fun alt => ⟨(congrArg decode (ofNat_eq_wordI 0x21 alt)).trans (decode_encode (.dmAddimg alt)),
    fun s herr => ?_⟩
  have hfull : s.pfx.tcnt.toNat = 255 ↔ s.pfx.tcnt = 255 := BitVec.toNat_inj (y := 255#8)
  refine ⟨fun hlen hcount hsize hname => ?_, fun hlen => ?_, fun hlen hcount => ?_,
    fun hlen hcount hsize => ?_, fun hlen hcount hsize hpos hbeyond => ?_⟩
  · have hfits : s.ImageFits := ⟨hlen, mt hfull.1 hcount, hsize, hname⟩
    exact ⟨s.withImage alt, exec_of_ok herr (ruleDmAddimg_eq_ok_iff.2 ⟨hfits, rfl⟩), rfl,
      byteArray_toList rfl, rfl, rfl,
      fun i => (byteArray_getElem 255 _ i i.isLt).trans (byteAt_readBytes ..), rfl, rfl, rfl,
      hfits.withImage_tcnt alt, hfits.withImage_size alt⟩
  · exact exec_of_error herr (if_pos hlen)
  · exact exec_of_error herr ((if_neg hlen.not_gt).trans (if_pos (hfull.2 hcount)))
  · exact exec_of_error herr ((if_neg hlen.not_gt).trans ((if_neg (mt hfull.1 hcount)).trans
      (if_pos hsize)))
  · have hout : ¬ s.inMem s.arg0.toNat s.arg1.toNat := not_or.2 ⟨hpos.ne', hbeyond.not_ge⟩
    exact exec_of_error herr ((if_neg hlen.not_gt).trans ((if_neg (mt hfull.1 hcount)).trans
      ((if_neg hsize.not_gt).trans (if_pos hout))))

/-! ### DM.ADDEL (R100) -/

/-- The state DM.ADDEL leaves past its checks. -/
def State.withElement (s : State) : State :=
  { s with
    el := { addr := s.elemAddr, size := s.elemSize }
    tgt := { s.tgt with
      size := BitVec.ofNat 32 (s.tgt.size.toNat + s.elemSize.toNat + elhdrLen)
      nelem := BitVec.ofNat 32 (s.tgt.nelem.toNat + 1) }
    pfx := { s.pfx with
      size := BitVec.ofNat 32 (s.pfx.size.toNat + s.elemSize.toNat + elhdrLen) } }

/-- What DM.ADDEL checks: a current target, and room for the element in its three fields. -/
structure State.ElementFits (s : State) : Prop where
  target : s.pfx.tcnt.toNat ≠ 0
  targetSize : s.tgt.size.toNat + s.arg1.toNat + elhdrLen ≤ maxField32
  imageSize : s.pfx.size.toNat + s.arg1.toNat + elhdrLen ≤ maxField32
  count : s.tgt.nelem.toNat ≠ maxField32

theorem ruleDmAddel_eq_ok_iff {s t : State} :
    ruleDmAddel s = .ok t ↔ s.ElementFits ∧ s.withElement = t := by
  simp only [ruleDmAddel, check_eq_ok_iff, Except.ok.injEq, not_lt, gt_iff_lt]
  exact ⟨fun ⟨htarget, htgt, hpfx, hcount, ht⟩ => ⟨⟨htarget, htgt, hpfx, hcount⟩, ht⟩,
    fun ⟨⟨htarget, htgt, hpfx, hcount⟩, ht⟩ => ⟨htarget, htgt, hpfx, hcount, ht⟩⟩

section
variable {s : State} (h : s.ElementFits)
include h

theorem State.ElementFits.withElement_tgtSize :
    s.withElement.tgt.size.toNat = s.tgt.size.toNat + s.arg1.toNat + 8 :=
  toNat_ofNat_of_le_maxField32 h.targetSize

theorem State.ElementFits.withElement_nelem : s.withElement.tgt.nelem.toNat = s.tgt.nelem.toNat + 1 :=
  toNat_ofNat_of_le_maxField32 (lt_of_le_of_ne (Nat.le_of_lt_succ s.tgt.nelem.isLt) h.count)

theorem State.ElementFits.withElement_pfxSize :
    s.withElement.pfx.size.toNat = s.pfx.size.toNat + s.arg1.toNat + 8 :=
  toNat_ofNat_of_le_maxField32 h.imageSize

end

/-- Settles O38: the fields of the state past the checks, and the four checks in their order. -/
theorem dmAddelAddsAnElement : Obligations.DmAddelAddsAnElement := by
  refine ⟨decode_encode .dmAddel, fun s herr => ?_⟩
  have hnone : s.pfx.tcnt.toNat = 0 ↔ s.pfx.tcnt = 0 := BitVec.toNat_inj (y := 0#8)
  have hfull : s.tgt.nelem.toNat = maxField32 ↔ s.tgt.nelem = 0xFFFFFFFF :=
    BitVec.toNat_inj (y := 0xFFFFFFFF#32)
  refine ⟨fun htarget htgt hpfx hcount => ?_, fun htarget => ?_, fun htarget htgt => ?_,
    fun htarget htgt hpfx => ?_, fun htarget htgt hpfx hcount => ?_⟩
  · have hfits : s.ElementFits := ⟨mt hnone.1 htarget, htgt, hpfx, mt hfull.1 hcount⟩
    exact ⟨s.withElement, exec_of_ok herr (ruleDmAddel_eq_ok_iff.2 ⟨hfits, rfl⟩), rfl,
      hfits.withElement_tgtSize, hfits.withElement_nelem, hfits.withElement_pfxSize⟩
  · exact exec_of_error herr (if_pos (hnone.2 htarget))
  · exact exec_of_error herr ((if_neg (mt hnone.1 htarget)).trans (if_pos htgt))
  · exact exec_of_error herr ((if_neg (mt hnone.1 htarget)).trans ((if_neg htgt.not_gt).trans
      (if_pos hpfx)))
  · exact exec_of_error herr ((if_neg (mt hnone.1 htarget)).trans ((if_neg htgt.not_gt).trans
      ((if_neg hpfx.not_gt).trans (if_pos (hfull.2 hcount)))))

/-! ### The closed form of the counts and sizes (R101) -/

/-- The counts and sizes of a state are those of the log. -/
structure ClosedForm (log : List DocEvent) (s : State) : Prop where
  tcnt : s.pfx.tcnt.toNat = imageCount log
  size : s.pfx.size.toNat = 11 + 271 * imageCount log + elementBytes log
  target : 0 < imageCount log →
    s.tgt.nelem.toNat = (lastImage log).length ∧ s.tgt.size.toNat = elementBytes (lastImage log)

section
variable {log : List DocEvent} {s : State}

theorem closedForm_emptyDocument (s : State) : ClosedForm [] s.emptyDocument :=
  ⟨rfl, rfl, fun hpos => absurd hpos (lt_irrefl 0)⟩

theorem ClosedForm.withImage (h : ClosedForm log s) (hfits : s.ImageFits) (alt : Byte) :
    ClosedForm (.image :: log) (s.withImage alt) where
  tcnt := by rw [hfits.withImage_tcnt, h.tcnt, imageCount]
  size := by
    rw [hfits.withImage_size, h.size, imageCount, elementBytes]
    omega
  target _ := ⟨rfl, rfl⟩

/-- An element is only added to a current target, so its log has an image. -/
theorem ClosedForm.withElement (h : ClosedForm log s) (hfits : s.ElementFits) :
    ClosedForm (.element s.arg1.toNat :: log) s.withElement where
  tcnt := h.tcnt
  size := by
    rw [hfits.withElement_pfxSize, h.size, imageCount, elementBytes]
    omega
  target _ := by
    obtain ⟨hnelem, hsize⟩ := h.target (Nat.pos_of_ne_zero (h.tcnt ▸ hfits.target))
    rw [hfits.withElement_nelem, hfits.withElement_tgtSize, hnelem, hsize]
    exact ⟨rfl, Nat.add_assoc ..⟩

theorem closedForm_of_docRun (h : DocRun log s) : ClosedForm log s := by
  induction h with
  | init _ hexec hclear =>
    obtain ⟨-, rfl⟩ := ruleDmInit_eq_ok_iff.1 (ruleOf_ok_of_exec (by decide) hexec hclear)
    exact closedForm_emptyDocument _
  | image alt _ hexec hclear ih =>
    obtain ⟨hfits, rfl⟩ := ruleDmAddimg_eq_ok_iff.1 (ruleOf_ok_of_exec (by simp) hexec hclear)
    exact ih.withImage hfits alt
  | element _ hexec hclear ih =>
    obtain ⟨hfits, rfl⟩ := ruleDmAddel_eq_ok_iff.1 (ruleOf_ok_of_exec (by decide) hexec hclear)
    exact ih.withElement hfits
  | other _ hpfx htgt _ _ ih => exact ⟨hpfx ▸ ih.tcnt, hpfx ▸ ih.size, htgt ▸ ih.target⟩

end

/-- Settles O39: every command of the run carries the closed form on. -/
theorem sizesFollowTheClosedForm : Obligations.SizesFollowTheClosedForm := fun _ _ hrun =>
  have h := closedForm_of_docRun hrun
  ⟨h.tcnt, h.size, h.target⟩

end Sys2Proof.Machine
end

section
/-! PROOFS. The pack commands (O40 to O44) and the suffix read back (O51). Every pack command ends in one
`Emit`, so what it appends, what it leaves alone and its faults at the output window are those of `emit`. -/

namespace Sys2Proof.Machine

/-! ### Emit: what it answers, and the state it leaves (R50) -/

/-- The state an `Emit` of `bs` leaves when it completes. -/
def State.appended (s : State) (bs : List Byte) : State :=
  { s.writeBytes s.outWin.pos.toNat bs with
    outWin := { s.outWin with pos := BitVec.ofNat 32 (s.outWin.pos.toNat + bs.length) } }

section
variable {s : State} {bs : List Byte} {n : Nat} (hlen : bs.length = n)
include hlen

theorem emit_of_fits (hlim : s.outWin.pos.toNat + n ≤ s.outWin.lim.toNat)
    (hmem : s.outWin.pos.toNat + n ≤ s.memBytes) : emit bs s = .ok (s.appended bs) := by
  rcases emit_cases bs s with ⟨-, hshort, -⟩ | ⟨-, -, hbeyond, -⟩ | ⟨-, hemit⟩
  · omega
  · omega
  · exact hemit

theorem emit_of_no_room (hpos : 0 < n) (hshort : s.outWin.lim.toNat < s.outWin.pos.toNat + n) :
    emit bs s = .error ⟨.ioWriteShort, s.outWin.pos⟩ := by
  rcases emit_cases bs s with ⟨-, -, hemit⟩ | ⟨-, hlim, -, -⟩ | ⟨hfits, -⟩
  · exact hemit
  · omega
  · omega

theorem emit_of_beyond_mem (hpos : 0 < n) (hlim : s.outWin.pos.toNat + n ≤ s.outWin.lim.toNat)
    (hbeyond : s.memBytes < s.outWin.pos.toNat + n) :
    emit bs s = .error ⟨.bufRange, s.outWin.pos⟩ := by
  rcases emit_cases bs s with ⟨-, hshort, -⟩ | ⟨-, -, -, hemit⟩ | ⟨hfits, -⟩
  · omega
  · exact hemit
  · omega

theorem State.appended_pos (hlim : s.outWin.pos.toNat + n ≤ s.outWin.lim.toNat) :
    (s.appended bs).outWin.pos.toNat = s.outWin.pos.toNat + n := by
  subst hlen
  exact toNat_ofNat_of_le hlim

theorem State.appended_readBytes : (s.appended bs).readBytes s.outWin.pos.toNat n = bs := by
  subst hlen
  exact s.readBytes_writeBytes s.outWin.pos.toNat bs

theorem State.appended_sameOutside : SameOutside s (s.appended bs) s.outWin.pos.toNat n := by
  subst hlen
  exact s.sameOutside_writeBytes s.outWin.pos.toNat bs

end

theorem State.appended_readByte {s : State} {bs : List Byte} {i : Nat} (hi : i < bs.length) :
    (s.appended bs).readByte (s.outWin.pos.toNat + i) = bs[i] := by
  calc (s.appended bs).readByte (s.outWin.pos.toNat + i)
    _ = (s.writeBytes s.outWin.pos.toNat bs).readByte (s.outWin.pos.toNat + i) := rfl
    _ = bs[i] := by simp [State.readByte_writeBytes, hi]

/-- A command that ends in an `Emit` of `bytes`, without a check before it, appends `bytes` (R106). -/
theorem appends_of_rule_eq_emit {i : Instr} {bytes : State → List Byte}
    (hrule : ∀ s, ruleOf i s = emit (bytes s) s) : Appends i bytes := by
  refine fun s herr => ⟨fun hlim hmem => ?_, fun hpos hshort => ?_, fun hpos hlim hbeyond => ?_⟩
  · exact ⟨s.appended (bytes s), exec_of_ok herr ((hrule s).trans (emit_of_fits rfl hlim hmem)), rfl,
      State.appended_readBytes rfl, State.appended_sameOutside rfl, State.appended_pos rfl hlim⟩
  · exact exec_of_error herr ((hrule s).trans (emit_of_no_room rfl hpos hshort))
  · exact exec_of_error herr ((hrule s).trans (emit_of_beyond_mem rfl hpos hlim hbeyond))

/-! ### PK.PREFIX, PK.TPREFIX, PK.ELHDR (R109 to R111) -/

/-- Settles O40: the rule is the `Emit` of the packed PFX registers. -/
theorem pkPrefixAppends : Obligations.PkPrefixAppends :=
  ⟨decode_encode .pkPrefix, fun s => packPrefix_length s.pfx, appends_of_rule_eq_emit fun _ => rfl⟩

/-- Settles O41: the rule is the `Emit` of the packed target registers. -/
theorem pkTprefixAppends : Obligations.PkTprefixAppends :=
  ⟨decode_encode .pkTprefix, fun s => packTprefix_length s.tgt, appends_of_rule_eq_emit fun _ => rfl⟩

/-- Settles O42: the rule is the `Emit` of the packed element registers. -/
theorem pkElhdrAppends : Obligations.PkElhdrAppends :=
  ⟨decode_encode .pkElhdr, fun s => packElhdr_length s.el, appends_of_rule_eq_emit fun _ => rfl⟩

/-! ### PK.DATA (R113) -/

/-- Past its source check PK.DATA emits the source bytes, read before any byte is written (R52). -/
theorem rulePkData_of_inMem {s : State} (hin : s.inMem s.dataSource.toNat s.dataLen) :
    rulePkData s = emit (s.readBytes s.dataSource.toNat s.dataLen) s :=
  if_neg (not_not.2 hin)

theorem rulePkData_of_not_inMem {s : State} (hout : ¬ s.inMem s.dataSource.toNat s.dataLen) :
    rulePkData s = .error ⟨.bufRange, s.dataSource⟩ :=
  if_pos hout

/-- Settles O43: the source check, then the `Emit` of the bytes read before it. -/
theorem pkDataAppendsACopy : Obligations.PkDataAppendsACopy := by
  refine ⟨decode_encode .pkData, fun s herr => ?_⟩
  have hlen : (s.readBytes s.dataSource.toNat s.dataLen).length = s.arg1.toNat := s.readBytes_length ..
  refine ⟨fun hzero => ?_, fun hsrc hlim hmem => ?_, fun hpos hbeyond => ?_,
    fun hpos hsrc hshort => ?_, fun hpos hsrc hlim hbeyond => ?_⟩
  · exact exec_of_ok herr (rulePkData_of_len_zero hzero)
  · refine ⟨_, exec_of_ok herr ((rulePkData_of_inMem (.inr hsrc)).trans (emit_of_fits hlen hlim hmem)),
      rfl, fun i hi => ?_, State.appended_sameOutside hlen, State.appended_pos hlen hlim⟩
    exact (State.appended_readByte (hlen.symm ▸ hi)).trans (State.readBytes_getElem ..)
  · exact exec_of_error herr (rulePkData_of_not_inMem (not_or.2 ⟨hpos.ne', hbeyond.not_ge⟩))
  · exact exec_of_error herr ((rulePkData_of_inMem (.inr hsrc)).trans (emit_of_no_room hlen hpos hshort))
  · exact exec_of_error herr ((rulePkData_of_inMem (.inr hsrc)).trans
      (emit_of_beyond_mem hlen hpos hlim hbeyond))

/-! ### PK.SUFFIX (R115) -/

/-- What the suffix commands check of their window (R115, R126): the stream so far in order, and 16 bytes
at the position, below the limit and inside MEM. -/
structure Window.SuffixFits (w : Window) (memBytes : Nat) : Prop where
  stream : w.base.toNat ≤ w.pos.toNat
  lim : w.pos.toNat + suffixLen ≤ w.lim.toNat
  mem : w.pos.toNat + suffixLen ≤ memBytes

/-- The CRC field of the suffix (R81): the stream so far and the suffix's first twelve bytes, from the
seed. -/
def State.suffixCrc (s : State) : Word :=
  crcUpdate crcSeed (s.readBytes s.outWin.base.toNat (s.outWin.pos.toNat - s.outWin.base.toNat)
    ++ packSuffix12 s.sfx)

/-- `s` with the CRC of its stream in SFX_CRC and ACC. -/
def State.withSuffixCrc (s : State) : State :=
  { s with sfx := { s.sfx with crc := s.suffixCrc }, acc := s.suffixCrc }

/-- The state PK.SUFFIX leaves past its checks. -/
def State.closed (s : State) : State :=
  s.withSuffixCrc.appended (packSuffix s.withSuffixCrc.sfx)

theorem crcUpdateTbl_of_built {s : State} (hs : s.tableBuilt) : crcUpdateTbl s.tbl = crcUpdate := by
  obtain ⟨-, htbl⟩ := hs
  rw [htbl, crcUpdateTbl_crcTable]

section
variable {s : State}

theorem rulePkSuffix_of_built (hs : s.tableBuilt) (hfits : s.outWin.SuffixFits s.memBytes) :
    rulePkSuffix s = .ok s.closed := by
  have ⟨hvalid, _⟩ := hs
  rw [rulePkSuffix, if_neg (by simp [hvalid]), if_neg hfits.stream.not_gt, if_neg hfits.lim.not_gt,
    if_neg hfits.mem.not_gt, crcUpdateTbl_of_built hs]
  exact emit_of_fits (packSuffix_length s.withSuffixCrc.sfx) (s := s.withSuffixCrc) hfits.lim hfits.mem

theorem State.closed_readBytes :
    s.closed.readBytes s.outWin.pos.toNat suffixLen = packSuffix s.closed.sfx :=
  State.appended_readBytes (s := s.withSuffixCrc) (packSuffix_length _)

theorem State.closed_sameOutside : SameOutside s s.closed s.outWin.pos.toNat suffixLen :=
  State.appended_sameOutside (s := s.withSuffixCrc) (packSuffix_length _)

theorem State.closed_pos (hfits : s.outWin.SuffixFits s.memBytes) :
    s.closed.outWin.pos.toNat = s.outWin.pos.toNat + suffixLen :=
  State.appended_pos (s := s.withSuffixCrc) (packSuffix_length _) hfits.lim

end

/-- Settles O44: the state past the checks, and the four checks in their order. -/
theorem pkSuffixAppendsTheCrc : Obligations.PkSuffixAppendsTheCrc := by
  refine ⟨decode_encode .pkSuffix, fun s herr => ⟨fun hs hbase hlim hmem => ?_, fun hinvalid => ?_,
    fun hvalid hbase => ?_, fun hvalid hbase hshort => ?_, fun hvalid hbase hlim hbeyond => ?_⟩⟩
  · have hfits : s.outWin.SuffixFits s.memBytes := ⟨hbase, hlim, hmem⟩
    exact ⟨s.closed, exec_of_ok herr (rulePkSuffix_of_built hs hfits), rfl, State.closed_readBytes,
      State.closed_sameOutside, State.closed_pos hfits⟩
  · exact exec_of_error herr (if_pos hinvalid)
  · exact exec_of_error herr ((if_neg (by simp [hvalid])).trans (if_pos hbase))
  · exact exec_of_error herr ((if_neg (by simp [hvalid])).trans ((if_neg hbase.not_gt).trans
      (if_pos hshort)))
  · exact exec_of_error herr ((if_neg (by simp [hvalid])).trans ((if_neg hbase.not_gt).trans
      ((if_neg hlim.not_gt).trans (if_pos hbeyond))))

/-! ### UP.SUFFIX on the closed stream (R126, R128) -/

theorem loadStream_of_fits {n : Nat} {s : State} (load : List Byte → State → State)
    (hlim : s.inWin.pos.toNat + n ≤ s.inWin.lim.toNat) (hmem : s.inWin.pos.toNat + n ≤ s.memBytes) :
    loadStream n load s = .ok (load (s.readBytes s.inWin.pos.toNat n)
      { s with inWin := { s.inWin with pos := BitVec.ofNat 32 (s.inWin.pos.toNat + n) } }) := by
  rcases loadStream_cases n load s with ⟨-, hshort, -⟩ | ⟨-, -, hbeyond, -⟩ | ⟨-, hload⟩
  · exact absurd hshort hlim.not_gt
  · exact absurd hbeyond hmem.not_gt
  · exact hload

/-- The state UP.SUFFIX leaves past its checks. -/
def State.suffixLoaded (s : State) : State :=
  { s with
    inWin := { s.inWin with pos := BitVec.ofNat 32 (s.inWin.pos.toNat + suffixLen) }
    sfx := unpackSuffix (s.readBytes s.inWin.pos.toNat suffixLen)
    acc := crcUpdate crcSeed
      (s.readBytes s.inWin.base.toNat (s.inWin.pos.toNat - s.inWin.base.toNat)
        ++ slice (s.readBytes s.inWin.pos.toNat suffixLen) 0 12) }

theorem ruleUpSuffix_of_built {s : State} (hs : s.tableBuilt) (hfits : s.inWin.SuffixFits s.memBytes) :
    ruleUpSuffix s = .ok s.suffixLoaded := by
  have ⟨hvalid, _⟩ := hs
  rw [ruleUpSuffix, if_neg (by simp [hvalid]), if_neg hfits.stream.not_gt, if_neg hfits.lim.not_gt,
    if_neg hfits.mem.not_gt, loadStream_of_fits _ hfits.lim hfits.mem, State.suffixLoaded,
    ← crcUpdateTbl_of_built hs]

/-- Bytes below a written range read as before. -/
theorem SameOutside.readBytes_below {s t : State} {a n : Nat} (h : SameOutside s t a n) {b m : Nat}
    (hbelow : b + m ≤ a) : t.readBytes b m = s.readBytes b m := by
  apply List.map_congr_left
  intro i hi
  have hlt := List.mem_range.1 hi
  exact h _ (.inl (by omega))

@[simp] theorem slice_packSuffix_twelve (x : SuffixRegs) : slice (packSuffix x) 0 12 = packSuffix12 x := by
  rw [packSuffix, slice_append_left (by simp), slice_of_length_le (by simp)]

/-- The state PK.SUFFIX leaves, with the input window over the closed stream and RPOS at its suffix. -/
def State.closedForReading (s : State) : State :=
  { s.closed with
    inWin := { base := s.outWin.base, pos := s.outWin.pos, lim := s.closed.outWin.pos } }

section
variable {s : State} (hfits : s.outWin.SuffixFits s.memBytes)
include hfits

theorem State.closedForReading_suffixFits :
    s.closedForReading.inWin.SuffixFits s.closedForReading.memBytes :=
  ⟨hfits.stream, (State.closed_pos hfits).ge, hfits.mem⟩

/-- The bytes read back are the packed suffix, and those before it are the stream it was computed from. -/
theorem State.closedForReading_suffixLoaded :
    s.closedForReading.suffixLoaded.sfx = s.closed.sfx
      ∧ s.closedForReading.suffixLoaded.acc = s.suffixCrc := by
  have hread : s.closedForReading.readBytes s.outWin.pos.toNat suffixLen = packSuffix s.closed.sfx :=
    State.closed_readBytes
  have hbody : s.closedForReading.readBytes s.outWin.base.toNat
        (s.outWin.pos.toNat - s.outWin.base.toNat)
      = s.readBytes s.outWin.base.toNat (s.outWin.pos.toNat - s.outWin.base.toNat) :=
    State.closed_sameOutside.readBytes_below (by have := hfits.stream; omega)
  constructor
  · exact (congrArg unpackSuffix hread).trans (unpackSuffix_packSuffix _)
  · calc s.closedForReading.suffixLoaded.acc
      _ = crcUpdate crcSeed (s.closedForReading.readBytes s.outWin.base.toNat
            (s.outWin.pos.toNat - s.outWin.base.toNat)
          ++ slice (s.closedForReading.readBytes s.outWin.pos.toNat suffixLen) 0 12) := rfl
      _ = s.suffixCrc := by rw [hread, hbody, slice_packSuffix_twelve]; rfl

end

/-- Settles O51: the suffix loaded from the closed stream is the one packed, over the same stream. -/
theorem unpackedSuffixVerifies : Obligations.UnpackedSuffixVerifies := by
  intro s t herr hs hbase hlim hmem hexec
  have hfits : s.outWin.SuffixFits s.memBytes := ⟨hbase, hlim, hmem⟩
  cases (exec_of_ok (i := .pkSuffix) herr (rulePkSuffix_of_built hs hfits)).symm.trans hexec
  obtain ⟨hsfx, hacc⟩ := State.closedForReading_suffixLoaded hfits
  have hrule : ruleUpSuffix s.closedForReading = .ok s.closedForReading.suffixLoaded :=
    ruleUpSuffix_of_built hs (State.closedForReading_suffixFits hfits)
  exact ⟨_, exec_of_ok (i := .upSuffix) herr hrule, hsfx, hacc.trans (congrArg SuffixRegs.crc hsfx).symm,
    herr⟩

end Sys2Proof.Machine
end

section
/-! PROOFS. The zero residue (O30): a byte equal to the accumulator's low byte clears it, and the step is
then a shift; four such bytes shift the whole accumulator out. -/

namespace Sys2Proof.Machine

/-- With the low byte cleared no round brings the polynomial in (R84). -/
theorem crcStep_low_byte (a : Word) : crcStep a (a.extractLsb' 0 8) = a >>> 8 := by
  have hclear : ∀ i < 8, (a ^^^ (a.extractLsb' 0 8).setWidth 32).getLsbD i = false := by
    intro i hi
    have hi32 : i < 32 := by omega
    simp [hi, hi32]
  rw [crcStep, crcRounds_of_low_clear hclear, xor_byte_shiftRight_eight]

/-- The byte at bit `k` is the low byte once `k` bits are shifted out. -/
theorem crcStep_shifted_own_byte (a : Word) (k : Nat) :
    crcStep (a >>> k) (a.extractLsb' k 8) = a >>> (k + 8) := by
  have hbyte : a.extractLsb' k 8 = (a >>> k).extractLsb' 0 8 := by
    apply BitVec.eq_of_getLsbD_eq
    intro i hi
    simp [hi]
  rw [hbyte, crcStep_low_byte, BitVec.shiftRight_add]

theorem crcUpdate_le32_self (a : Word) : crcUpdate a (le32 a) = 0 := by
  calc crcUpdate a (le32 a)
    _ = crcStep (crcStep (crcStep (crcStep a (a.extractLsb' 0 8)) (a.extractLsb' 8 8))
          (a.extractLsb' 16 8)) (a.extractLsb' 24 8) := rfl
    _ = a >>> 32 := by simp only [crcStep_low_byte, crcStep_shifted_own_byte, Nat.reduceAdd]
    _ = 0 := BitVec.ushiftRight_eq_zero le_rfl

/-- Settles O30: the CRC goes on over its own four bytes, which shift it out. -/
theorem zeroResidue : Obligations.ZeroResidue := fun a s =>
  (crcUpdate_append a s _).trans (crcUpdate_le32_self _)

end Sys2Proof.Machine
end

section
/-! PROOFS. The unpack commands (O45 to O49). Every unpack command ends in one `loadStream`, so what it
consumes and its faults at the input window are those of `loadStream`; what a field is loaded with is a
slice of the bytes at RPOS. -/

namespace Sys2Proof.Machine

/-! ### Fields of a structure read from MEM -/

section
variable (s : State) (a i : Nat) {n : Nat}

theorem slice_readBytes {j : Nat} (h : j ≤ n) :
    slice (s.readBytes a n) i j = s.readBytes (a + i) (j - i) := by
  apply List.ext_getElem (by simp [slice_length, h])
  intro k _ _
  simp [slice, State.readBytes, Nat.add_assoc]

theorem byteAt_readBytes_of_lt (h : i < n) : byteAt (s.readBytes a n) i = s.readByte (a + i) :=
  (byteAt_readBytes s a n i).trans (if_pos h)

theorem unLe16_slice_readBytes (h : i + 2 ≤ n) :
    (unLe16 (slice (s.readBytes a n) i (i + 2))).toNat = s.le16At (a + i) := by
  rw [slice_readBytes s a i h, Nat.add_sub_cancel_left]
  exact unLe16_toNat ..

theorem unLe32_slice_readBytes (h : i + 4 ≤ n) :
    (unLe32 (slice (s.readBytes a n) i (i + 4))).toNat = s.le32At (a + i) := by
  rw [slice_readBytes s a i h, Nat.add_sub_cancel_left]
  exact unLe32_toNat ..

theorem byteArray_slice_readBytes {m : Nat} (h : i + m ≤ n) (k : Fin m) :
    (byteArray m (slice (s.readBytes a n) i (i + m)))[k] = s.readByte (a + i + k) := by
  rw [slice_readBytes s a i h, Nat.add_sub_cancel_left, Fin.getElem_fin, byteArray_getElem m _ k k.isLt,
    byteAt_readBytes_of_lt s (a + i) k k.isLt]

end

/-! ### Taking from the input window (R51) -/

/-- The state a `Take` of `n` bytes leaves when it completes. -/
def State.taken (s : State) (n : Nat) : State :=
  { s with inWin := { s.inWin with pos := BitVec.ofNat 32 (s.inWin.pos.toNat + n) } }

section
variable {s : State} {n : Nat} (load : List Byte → State → State)

theorem State.taken_pos (hlim : s.inWin.pos.toNat + n ≤ s.inWin.lim.toNat) :
    (s.taken n).inWin.pos.toNat = s.inWin.pos.toNat + n :=
  toNat_ofNat_of_le hlim

theorem loadStream_of_short (hpos : 0 < n) (hshort : s.inWin.lim.toNat < s.inWin.pos.toNat + n) :
    loadStream n load s = .error ⟨.ioReadShort, s.inWin.pos⟩ := by
  rcases loadStream_cases n load s with ⟨-, -, hload⟩ | ⟨-, hlim, -, -⟩ | ⟨hfits, -⟩
  · exact hload
  · omega
  · omega

theorem loadStream_of_beyond_mem (hpos : 0 < n) (hlim : s.inWin.pos.toNat + n ≤ s.inWin.lim.toNat)
    (hbeyond : s.memBytes < s.inWin.pos.toNat + n) :
    loadStream n load s = .error ⟨.bufRange, s.inWin.pos⟩ := by
  rcases loadStream_cases n load s with ⟨-, hshort, -⟩ | ⟨-, -, -, hload⟩ | ⟨hfits, -⟩
  · omega
  · exact hload
  · omega

end

/-- A command that is one `loadStream` of `n` bytes, without a check before it, consumes `n` bytes (R120),
whatever `load` does to the registers. -/
theorem consumes_of_rule_eq_loadStream {i : Instr} {n : Nat} {load : List Byte → State → State}
    {loaded frame : State → State → Prop} (hn : 0 < n) (hrule : ∀ s, ruleOf i s = loadStream n load s)
    (hwin : ∀ bs t, (load bs t).inWin = t.inWin)
    (hloaded : ∀ s, loaded s (load (s.readBytes s.inWin.pos.toNat n) (s.taken n)))
    (hframe : ∀ s, frame s (load (s.readBytes s.inWin.pos.toNat n) (s.taken n))) :
    Consumes i n loaded frame := by
  refine fun s herr => ⟨fun hlim hmem => ?_, fun hshort => ?_, fun hlim hbeyond => ?_⟩
  · refine ⟨_, exec_of_ok herr ((hrule s).trans (loadStream_of_fits load hlim hmem)), hloaded s,
      hframe s, ?_⟩
    rw [hwin]
    exact State.taken_pos hlim
  · exact exec_of_error herr ((hrule s).trans (loadStream_of_short load hn hshort))
  · exact exec_of_error herr ((hrule s).trans (loadStream_of_beyond_mem load hn hlim hbeyond))

/-! ### UP.PREFIX, UP.TPREFIX, UP.ELHDR (R121 to R123) -/

/-- Settles O45: the fields at the offsets of R75. -/
theorem upPrefixLoads : Obligations.UpPrefixLoads := by
  refine ⟨decode_encode .upPrefix, consumes_of_rule_eq_loadStream (by decide) (fun _ => rfl)
    (fun _ _ => rfl) (fun s => ?_) (fun _ => rfl)⟩
  exact ⟨byteArray_slice_readBytes s _ 0 (by decide),
    byteAt_readBytes_of_lt (n := prefixLen) s _ 5 (by decide), unLe32_slice_readBytes s _ 6 (by decide),
    byteAt_readBytes_of_lt (n := prefixLen) s _ 10 (by decide)⟩

/-- Settles O46: the fields at the offsets of R76. -/
theorem upTprefixLoads : Obligations.UpTprefixLoads := by
  refine ⟨decode_encode .upTprefix, consumes_of_rule_eq_loadStream (by decide) (fun _ => rfl)
    (fun _ _ => rfl) (fun s => ?_) (fun _ => rfl)⟩
  exact ⟨byteArray_slice_readBytes s _ 0 (by decide),
    byteAt_readBytes_of_lt (n := tprefixLen) s _ 6 (by decide),
    byteAt_readBytes_of_lt (n := tprefixLen) s _ 7 (by decide), byteArray_slice_readBytes s _ 8 (by decide),
    unLe32_slice_readBytes s _ 263 (by decide), unLe32_slice_readBytes s _ 267 (by decide)⟩

/-- Settles O47: the fields at the offsets of R77. -/
theorem upElhdrLoads : Obligations.UpElhdrLoads := by
  refine ⟨decode_encode .upElhdr, consumes_of_rule_eq_loadStream (by decide) (fun _ => rfl)
    (fun _ _ => rfl) (fun s => ?_) (fun _ => rfl)⟩
  exact ⟨unLe32_slice_readBytes s _ 0 (by decide), unLe32_slice_readBytes s _ 4 (by decide)⟩

/-! ### UP.DATA (R125) -/

/-- The state UP.DATA leaves past its checks: the stream bytes, read before any byte is written (R52), at
the destination. -/
def State.payloadCopied (s : State) : State :=
  (s.taken s.dataLen).writeBytes s.dataDest.toNat (s.readBytes s.inWin.pos.toNat s.dataLen)

section
variable {s : State}

theorem ruleUpData_of_inMem (hin : s.inMem s.dataDest.toNat s.dataLen) :
    ruleUpData s = loadStream s.dataLen (fun bs t => t.writeBytes s.dataDest.toNat bs) s :=
  if_neg (not_not.2 hin)

theorem ruleUpData_of_not_inMem (hout : ¬ s.inMem s.dataDest.toNat s.dataLen) :
    ruleUpData s = .error ⟨.bufRange, s.dataDest⟩ :=
  if_pos hout

theorem State.payloadCopied_readByte {i : Nat} (hi : i < s.dataLen) :
    s.payloadCopied.readByte (s.dataDest.toNat + i) = s.readByte (s.inWin.pos.toNat + i) := by
  rw [State.payloadCopied, State.readByte_writeBytes, dif_pos (by simpa using hi),
    State.readBytes_getElem, Nat.add_sub_cancel_left]

theorem State.payloadCopied_sameOutside : SameOutside s s.payloadCopied s.dataDest.toNat s.dataLen := by
  intro x hx
  exact (State.readByte_writeBytes_outside _ (by rwa [State.readBytes_length])).trans
    (State.readByte_congr rfl rfl x)

end

/-- Settles O48: the destination check, then the load of the bytes read before it. -/
theorem upDataCopiesThePayload : Obligations.UpDataCopiesThePayload := by
  refine ⟨decode_encode .upData, fun s herr => ⟨fun hzero => ?_, fun hdst hlim hmem => ?_,
    fun hpos hbeyond => ?_, fun hpos hdst hshort => ?_, fun hpos hdst hlim hbeyond => ?_⟩⟩
  · exact exec_of_ok herr (ruleUpData_of_len_zero hzero)
  · exact ⟨s.payloadCopied,
      exec_of_ok herr ((ruleUpData_of_inMem (.inr hdst)).trans (loadStream_of_fits _ hlim hmem)), rfl,
      fun i => State.payloadCopied_readByte, State.payloadCopied_sameOutside, State.taken_pos hlim⟩
  · exact exec_of_error herr (ruleUpData_of_not_inMem (not_or.2 ⟨hpos.ne', hbeyond.not_ge⟩))
  · exact exec_of_error herr ((ruleUpData_of_inMem (.inr hdst)).trans (loadStream_of_short _ hpos hshort))
  · exact exec_of_error herr ((ruleUpData_of_inMem (.inr hdst)).trans
      (loadStream_of_beyond_mem _ hpos hlim hbeyond))

/-! ### UP.SUFFIX (R126) -/

/-- The suffix's first twelve bytes follow the stream in MEM, so the two are one range (R81). -/
theorem State.suffixLoaded_acc {s : State} (hstream : s.inWin.base.toNat ≤ s.inWin.pos.toNat) :
    s.suffixLoaded.acc = crcUpdate crcSeed
      (s.readBytes s.inWin.base.toNat (s.inWin.pos.toNat - s.inWin.base.toNat + 12)) := by
  rw [← State.readBytes_append, Nat.add_sub_cancel' hstream, State.suffixLoaded,
    slice_readBytes s _ 0 (by decide)]
  rfl

/-- Settles O49: the fields at the offsets of R78, and the four checks in their order. -/
theorem upSuffixLoadsAndRecomputes : Obligations.UpSuffixLoadsAndRecomputes := by
  refine ⟨decode_encode .upSuffix, fun s herr => ⟨fun hs hbase hlim hmem => ?_, fun hinvalid => ?_,
    fun hvalid hbase => ?_, fun hvalid hbase hshort => ?_, fun hvalid hbase hlim hbeyond => ?_⟩⟩
  · refine ⟨s.suffixLoaded, exec_of_ok herr (ruleUpSuffix_of_built hs ⟨hbase, hlim, hmem⟩), rfl, ?_,
      State.suffixLoaded_acc hbase, State.taken_pos hlim⟩
    exact ⟨unLe16_slice_readBytes s _ 0 (by decide), unLe16_slice_readBytes s _ 2 (by decide),
      unLe16_slice_readBytes s _ 4 (by decide), unLe16_slice_readBytes s _ 6 (by decide),
      byteArray_slice_readBytes s _ 8 (by decide), byteAt_readBytes_of_lt (n := suffixLen) s _ 11 (by decide),
      unLe32_slice_readBytes s _ 12 (by decide)⟩
  · exact exec_of_error herr (if_pos hinvalid)
  · exact exec_of_error herr ((if_neg (by simp [hvalid])).trans (if_pos hbase))
  · exact exec_of_error herr ((if_neg (by simp [hvalid])).trans ((if_neg hbase.not_gt).trans
      (if_pos hshort)))
  · exact exec_of_error herr ((if_neg (by simp [hvalid])).trans ((if_neg hbase.not_gt).trans
      ((if_neg hlim.not_gt).trans (if_pos hbeyond))))

end Sys2Proof.Machine
end

section
/-! PROOFS. The system commands (O16, O25), and that every command and every host action inside MEM answers
a next state (O7). -/

namespace Sys2Proof

/-- Only the two MEM accesses have a side condition (R41). -/
theorem HostAction.wf_eq_false_iff {memBytes : Nat} {a : HostAction} : a.wf memBytes = false ↔
    (∃ addr n, a = .memRd addr n ∧ memBytes < addr.toNat + n)
      ∨ ∃ addr bs, a = .memWr addr bs ∧ memBytes < addr.toNat + bs.length := by
  cases a <;> simp [HostAction.wf]

end Sys2Proof

namespace Sys2Proof.Machine

/-! ### Every command ends (R131) -/

theorem exec_next (i : Instr) (s : State) : ∃ t, exec i s = .next t := by
  by_cases hi : i = .sysReset
  · exact ⟨softReset s, by rw [hi, exec_sysReset]⟩
  · rw [exec_eq_runCommand hi]
    exact runCommand_next (ruleOf i) s

theorem commandWrite_next (w : Word) (s : State) : ∃ t, commandWrite w s = .next t := by
  rcases commandWrite_cases w s with ⟨i, -, hexec⟩ | ⟨_, -, hraise⟩
  · exact hexec ▸ exec_next i s
  · exact ⟨_, hraise⟩

theorem registerWrite_next (number : RegNum) (d : Word) (s : State) :
    ∃ t, registerWrite number d s = .next t := by
  unfold registerWrite
  split
  · exact commandWrite_next d s
  · exact ⟨_, rfl⟩

theorem performAction_next (a : HostAction) (s : State) : ∃ t, performAction a s = .next t := by
  cases a with
  | wr number d => exact registerWrite_next number d s
  | _ => exact ⟨_, rfl⟩

/-! ### The one refusal (R41, U3) -/

theorem step_refused_of_not_wf {s : State} {a : HostAction} {rest : List HostAction}
    (h : s.script = a :: rest) (hwf : a.wf s.memBytes = false) :
    step s = .refused .hostAccessOutsideMem := by
  simp [step, takeAction, h, hwf]

/-- A step answers a next state, or an ill-formed action comes next and it refuses. -/
theorem step_next_or_refused (s : State) :
    (∃ t, step s = .next t)
      ∨ ∃ a rest, s.script = a :: rest ∧ a.wf s.memBytes = false
        ∧ step s = .refused .hostAccessOutsideMem := by
  rcases takeAction_cases s with ⟨-, hwait⟩ | hrefused | ⟨a, rest, -, -, hact⟩
  · exact .inl ⟨s, hwait⟩
  · exact .inr hrefused
  · obtain ⟨t, ht⟩ := performAction_next a (s.begin rest)
    exact .inl ⟨t, hact.trans ht⟩

theorem step_refused_iff (s : State) : step s = .refused .hostAccessOutsideMem ↔
    ∃ a rest, s.script = a :: rest ∧ a.wf s.memBytes = false := by
  constructor
  · intro h
    rcases step_next_or_refused s with ⟨t, ht⟩ | ⟨a, rest, hscript, hwf, -⟩
    · cases h.symm.trans ht
    · exact ⟨a, rest, hscript, hwf⟩
  · rintro ⟨a, rest, hscript, hwf⟩
    exact step_refused_of_not_wf hscript hwf

/-- Settles O7: the refusing actions are the ill-formed ones, which are the two accesses outside MEM. -/
theorem onlyForeignMemAccessStops : Obligations.OnlyForeignMemAccessStops := by
  refine ⟨exec_next, fun s => ⟨?_, ?_⟩⟩
  · exact (step_next_or_refused s).imp_right fun ⟨_, _, _, _, hrefused⟩ => hrefused
  · rw [step_refused_iff]
    constructor
    · rintro ⟨a, rest, hscript, hwf⟩
      rcases HostAction.wf_eq_false_iff.1 hwf with ⟨addr, n, rfl, hout⟩ | ⟨addr, bs, rfl, hout⟩
      · exact ⟨rest, .inl ⟨addr, n, hscript, hout⟩⟩
      · exact ⟨rest, .inr ⟨addr, bs, hscript, hout⟩⟩
    · rintro ⟨rest, ⟨addr, n, hscript, hout⟩ | ⟨addr, bs, hscript, hout⟩⟩
      · exact ⟨_, rest, hscript, HostAction.wf_eq_false_iff.2 (.inl ⟨addr, n, rfl, hout⟩)⟩
      · exact ⟨_, rest, hscript, HostAction.wf_eq_false_iff.2 (.inr ⟨addr, bs, rfl, hout⟩)⟩

/-! ### SYS.RESET and NOP (R132, R133) -/

/-- An illegal word written to CMD, whatever ERR holds (R62, R144). -/
theorem step_wr_illegal {s : State} {w : Word} {r : Reject} {rest : List HostAction}
    (h : s.script = .wr 0x00 w :: rest) (hw : decode w = .error r) :
    step s = .next (raise ⟨.illegalCmd, w⟩ (s.begin rest)) := by
  rw [step_wr_cmd h, commandWrite_of_illegal (ne_ok_of_decode_eq_error hw)]

/-- SYS.RESET's opcode with an immediate of 1 is not SYS.RESET (R133). -/
theorem decode_sysReset_with_imm : decode 0x00000101 = .error .nonzeroImm := by decide

/-- Settles O16: the exact word runs the soft reset; the other word raises, or a latched fault hides it. -/
theorem softResetEffect : Obligations.SoftResetEffect := by
  have hword : decode 0x00000001 = .ok .sysReset := decode_encode .sysReset
  refine ⟨hword, fun s rest h => ?_, fun s rest h => ⟨fun herr => ?_, fun herr => ?_⟩⟩
  · refine ⟨softReset (s.begin rest), ?_, softReset_registersReset _, rfl⟩
    rw [step_wr_cmd h, commandWrite_of_decode hword, exec_sysReset]
  · rw [step_wr_illegal h decode_sysReset_with_imm, raise_of_clear (s := s.begin rest) herr]
    rfl
  · rw [step_wr_illegal h decode_sysReset_with_imm, raise_of_latched (s := s.begin rest) herr]
    rfl

/-- Settles O25: with no fault latched the rule completes with the same state; else no command runs. -/
theorem nopChangesNothing : Obligations.NopChangesNothing := by
  refine ⟨decode_encode .nop, fun s => ?_⟩
  by_cases herr : s.err = 0
  · exact exec_of_ok herr rfl
  · exact exec_of_latched (by decide) herr

end Sys2Proof.Machine
end

section
/-! PROOFS. The faults (O6, O21 to O24): a command raises the first check of its list that holds, a command
that ends with a fault has latched it, and a step keeps ERR and ERRINFO, latches a live code or resets. -/

namespace Sys2Proof

/-- The host actions that reset the block: SYS.RESET's word written to CMD, and the reset input (R147). -/
def HostAction.Resets (a : HostAction) : Prop := a = .wr 0x00 0x00000001 ∨ a = .hardReset

end Sys2Proof

namespace Sys2Proof.Machine

/-! ### The first check that holds (R146) -/

/-- The fault an operation raises, if any. -/
def trapOf {α : Type} : Except Trap α → Option Trap
  | .ok _ => none
  | .error e => some e

/-- The fault of the first check that holds. -/
def firstTrap (checks : List Check) : Option Trap :=
  (checks.find? fun c => c.1).map fun c => c.2

theorem firstTrap_cons (k : Check) (checks : List Check) :
    firstTrap (k :: checks) = if k.1 then some k.2 else firstTrap checks := by
  unfold firstTrap
  cases h : k.1 <;> simp [h]

/-- The operation raises the first of the checks that holds, and completes when none does. -/
def TakesFirst {α : Type} (checks : List Check) (r : Except Trap α) : Prop :=
  trapOf r = firstTrap checks

section
variable {α : Type} {checks : List Check} {r : Except Trap α} {s : State}

theorem TakesFirst.of_eq_ok {x : α} (h : r = .ok x) : TakesFirst [] r := by
  rw [h]
  rfl

/-- One check in front of an operation, its condition in the operation's form `c` and in the list's form
`d`. What follows may assume that it did not hold. -/
theorem TakesFirst.check {c d : Prop} [Decidable c] [Decidable d] {e : Trap} (hcd : c ↔ d)
    (h : ¬ c → TakesFirst checks r) :
    TakesFirst ((decide d, e) :: checks) (if c then .error e else r) := by
  unfold TakesFirst
  rw [firstTrap_cons]
  by_cases hc : c
  · rw [if_pos hc, if_pos (decide_eq_true (hcd.1 hc))]
    rfl
  · rw [if_neg hc, if_neg (by simpa using mt hcd.2 hc)]
    exact h hc

theorem TakesFirst.tableCheck (h : TakesFirst checks r) :
    TakesFirst (tableCheck s :: checks) (if s.tvalid = false then .error ⟨.tableNotReady, 0⟩ else r) := by
  unfold TakesFirst
  rw [firstTrap_cons]
  cases hvalid : s.tvalid with
  | false => simp [Machine.tableCheck, hvalid, trapOf]
  | true => simpa [Machine.tableCheck, hvalid, TakesFirst] using h

/-- The range check of R46, as the commands write it and as the list of checks does. -/
theorem not_inMem_iff {a n : Nat} : ¬ s.inMem a n ↔ 0 < n ∧ s.memBytes < a + n := by
  unfold State.inMem
  omega

theorem TakesFirst.rangeCheck {a : Word} {n : Nat} (h : TakesFirst checks r) :
    TakesFirst (rangeCheck s a n :: checks)
      (if ¬ s.inMem a.toNat n then .error ⟨.bufRange, a⟩ else r) :=
  .check not_inMem_iff fun _ => h

/-! ### The stream operations (R50, R51) -/

theorem emit_takesFirst {bs : List Byte} {n : Nat} (hlen : bs.length = n) :
    TakesFirst (emitChecks s n) (emit bs s) := by
  subst hlen
  exact .check (by omega) fun _ => .check .rfl fun _ => .of_eq_ok rfl

theorem takeStream_takesFirst (n : Nat) : TakesFirst (takeChecks s n) (takeStream n s) :=
  .check (by omega) fun _ => .check .rfl fun _ => .of_eq_ok rfl

/-- Loading raises what taking the bytes raises. -/
theorem trapOf_loadStream (n : Nat) (load : List Byte → State → State) :
    trapOf (loadStream n load s) = trapOf (takeStream n s) := by
  unfold loadStream
  cases takeStream n s <;> rfl

theorem loadStream_takesFirst (n : Nat) (load : List Byte → State → State) :
    TakesFirst (takeChecks s n) (loadStream n load s) :=
  (trapOf_loadStream n load).trans (takeStream_takesFirst n)

end

/-! ### The checks of every command (R142, R146) -/

/-- The window checks of the suffix commands (R115, R126), which leave the stream operation behind them none
of its own to fail. -/
theorem TakesFirst.suffixWindow {w : Window} {memBytes : Nat} {short : FaultKind} {r : Except Trap State}
    (h : w.SuffixFits memBytes → TakesFirst [] r) :
    TakesFirst
      [(decide (w.pos.toNat < w.base.toNat), ⟨.bufRange, w.base⟩),
       (decide (0 < 16 ∧ w.lim.toNat < w.pos.toNat + 16), ⟨short, w.pos⟩),
       (decide (0 < 16 ∧ memBytes < w.pos.toNat + 16), ⟨.bufRange, w.pos⟩)]
      (if w.base.toNat > w.pos.toNat then .error ⟨.bufRange, w.base⟩
        else if w.pos.toNat + suffixLen > w.lim.toNat then .error ⟨short, w.pos⟩
        else if w.pos.toNat + suffixLen > memBytes then .error ⟨.bufRange, w.pos⟩
        else r) :=
  .check .rfl fun hstream => .check (by simp [suffixLen]) fun hlim => .check (by simp [suffixLen]) fun hmem =>
    h ⟨not_lt.1 hstream, not_lt.1 hlim, not_lt.1 hmem⟩

theorem ruleOf_takesFirst (i : Instr) (s : State) : TakesFirst (faultChecks i s) (ruleOf i s) := by
  cases i with
  | nop | sysReset | crcTinit | crcSeed => exact .of_eq_ok rfl
  | crcByte imm8 => exact .tableCheck (.of_eq_ok rfl)
  | crcBlock => exact .tableCheck (.rangeCheck (.of_eq_ok rfl))
  | dmInit => exact .check .rfl fun _ => .check .rfl fun _ => .check .rfl fun _ => .of_eq_ok rfl
  | dmAddimg imm8 =>
    exact .check .rfl fun _ => .check (BitVec.toNat_inj (y := 255)) fun _ => .check .rfl fun _ =>
      .rangeCheck (.of_eq_ok rfl)
  | dmAddel =>
    exact .check (BitVec.toNat_inj (y := 0)) fun _ => .check .rfl fun _ => .check .rfl fun _ =>
      .check (BitVec.toNat_inj (y := 0xFFFFFFFF)) fun _ => .of_eq_ok rfl
  | pkPrefix => exact emit_takesFirst (packPrefix_length _)
  | pkTprefix => exact emit_takesFirst (packTprefix_length _)
  | pkElhdr => exact emit_takesFirst (packElhdr_length _)
  | pkData => exact .rangeCheck (emit_takesFirst (s.readBytes_length _ _))
  | pkSuffix =>
    exact .tableCheck (.suffixWindow fun hfits =>
      .of_eq_ok (emit_of_fits (by simp [suffixLen]) hfits.lim hfits.mem))
  | upPrefix | upTprefix | upElhdr => exact loadStream_takesFirst _ _
  | upData => exact .rangeCheck (loadStream_takesFirst _ _)
  | upSuffix =>
    exact .tableCheck (.suffixWindow fun hfits => .of_eq_ok (loadStream_of_fits _ hfits.lim hfits.mem))

theorem firstFault_eq_trapOf_ruleOf (i : Instr) (s : State) : firstFault i s = trapOf (ruleOf i s) :=
  (ruleOf_takesFirst i s).symm

/-- A rule that completes leaves ERR as it was; SYS.RESET's clears it. -/
theorem ruleOf_ok_err_clear {i : Instr} {s t : State} (hs : s.err = 0) (h : ruleOf i s = .ok t) :
    t.err = 0 := by
  by_cases hi : i = .sysReset
  · subst hi
    cases h; rfl
  · exact (ruleOf_ok_boundedEffect hi h).err.trans hs

/-- Settles O21: the fault of a command's rule is its first fault, and an illegal word raises before any
rule. -/
theorem faultOrderAndContext : Obligations.FaultOrderAndContext := by
  refine ⟨fun i s hclear => ?_, fun s w rest r hscript hclear hw => ?_⟩
  · rw [firstFault_eq_trapOf_ruleOf]
    cases hrule : ruleOf i s with
    | ok t =>
      exact ⟨nofun, fun _ => ⟨t, exec_of_ok hclear hrule, ruleOf_ok_err_clear hclear hrule⟩⟩
    | error e =>
      refine ⟨fun e' he => ?_, nofun⟩
      obtain rfl := Option.some.inj he
      exact exec_of_error hclear hrule
  · rw [step_wr_illegal hscript hw, raise_of_clear (s := s.begin rest) hclear]
    rfl

/-! ### A command that ends with a fault (R143) -/

/-- From a state with no fault, a command that ends with one has latched the fault its rule raised. -/
theorem exec_faulted {i : Instr} {s t : State} (hclear : s.err = 0) (h : exec i s = .next t)
    (hfault : t.err ≠ 0) : ∃ e, ruleOf i s = .error e ∧ t = s.latched e := by
  rcases exec_cases h with ⟨-, rfl⟩ | ⟨-, hlatched, -⟩ | ⟨-, -, hok⟩ | ⟨-, -, herror⟩
  · exact absurd rfl hfault
  · exact absurd hclear hlatched
  · exact absurd (ruleOf_ok_err_clear hclear hok) hfault
  · exact herror

/-- Settles O22: latching a fault writes ERR and ERRINFO alone. -/
theorem faultsArePrecise : Obligations.FaultsArePrecise := by
  intro i s t hclear h hfault
  obtain ⟨e, -, rfl⟩ := exec_faulted hclear h hfault
  exact ⟨rfl, fun a => s.readByte_congr rfl rfl a⟩

/-! ### Commands while a fault is latched (R144) -/

theorem ne_sysReset_of_decode {w : Word} {i : Instr} (hw : decode w = .ok i) (hne : w ≠ 0x00000001) :
    i ≠ .sysReset := by
  rintro rfl
  exact hne (decode_eq_ok_iff.1 hw).symm

theorem commandWrite_of_latched {w : Word} {s : State} (hlatched : s.err ≠ 0) (hw : w ≠ 0x00000001) :
    commandWrite w s = .next s := by
  rcases commandWrite_cases w s with ⟨i, hi, hexec⟩ | ⟨_, -, hraise⟩
  · rw [hexec, exec_of_latched (ne_sysReset_of_decode hi hw) hlatched]
  · rw [hraise, raise_of_latched hlatched]

/-- Settles O6: the write takes the action from the script and its word has no effect. -/
theorem latchedFaultBlocksCommands : Obligations.LatchedFaultBlocksCommands := by
  intro s w rest hscript hlatched hw
  rw [step_wr_cmd hscript, commandWrite_of_latched (s := s.begin rest) hlatched hw]
  rfl

/-! ### What a step can do to ERR and ERRINFO (R141, R147) -/

/-- The change from `s` to `t` keeps ERR and ERRINFO, latches a fault of a live code where none was latched,
or is a reset, which `cause` tells. -/
inductive FaultChange (cause : Prop) (s t : State) : Prop where
  | kept (herr : t.err = s.err) (hinfo : t.errInfo = s.errInfo)
  | raised (hclear : s.err = 0) (hlive : t.err ∈ liveCodes)
  | reset (hcause : cause) (herr : t.err = 0)

section
variable {cause : Prop} {s t : State}

theorem FaultChange.mono {cause' : Prop} (h : FaultChange cause s t) (hcause : cause → cause') :
    FaultChange cause' s t := by
  cases h with
  | kept herr hinfo => exact .kept herr hinfo
  | raised hclear hlive => exact .raised hclear hlive
  | reset hc herr => exact .reset (hcause hc) herr

/-- Taking the action from the script touches neither register. -/
theorem FaultChange.of_begin {rest : List HostAction} (h : FaultChange cause (s.begin rest) t) :
    FaultChange cause s t := by
  cases h with
  | kept herr hinfo => exact .kept herr hinfo
  | raised hclear hlive => exact .raised hclear hlive
  | reset hcause herr => exact .reset hcause herr

theorem raise_faultChange {e : Trap} (he : faultCode e.kind ∈ liveCodes) :
    FaultChange cause s (raise e s) := by
  by_cases hs : s.err = 0
  · rw [raise_of_clear hs]
    exact .raised hs he
  · rw [raise_of_latched hs]
    exact .kept rfl rfl

theorem exec_faultChange {i : Instr} (h : exec i s = .next t) : FaultChange (i = .sysReset) s t := by
  rcases exec_cases h with ⟨hi, rfl⟩ | ⟨-, -, rfl⟩ | ⟨hi, -, hok⟩ | ⟨-, hclear, e, herror, rfl⟩
  · exact .reset hi rfl
  · exact .kept rfl rfl
  · have heffect := ruleOf_ok_boundedEffect hi hok
    exact .kept heffect.err heffect.errInfo
  · exact .raised hclear (faultCode_live_of_raisedBy i e.kind (ruleOf_error_raisedBy herror))

theorem commandWrite_faultChange {w : Word} (h : commandWrite w s = .next t) :
    FaultChange (w = 0x00000001) s t := by
  rcases commandWrite_cases w s with ⟨i, hi, hexec⟩ | ⟨_, -, hraise⟩
  · exact (exec_faultChange (hexec ▸ h)).mono fun hreset => by
      by_contra hw
      exact ne_sysReset_of_decode hi hw hreset
  · cases hraise.symm.trans h
    exact raise_faultChange (by simp [faultCode, liveCodes])

theorem registerWrite_faultChange {number : RegNum} {d : Word} (h : registerWrite number d s = .next t) :
    FaultChange (number = 0x00 ∧ d = 0x00000001) s t := by
  unfold registerWrite at h
  split at h
  · exact (commandWrite_faultChange h).mono fun hd => ⟨‹number = regNumber .cmd›, hd⟩
  · cases h
    have hfields := s.writeNumber_invFields number d
    simp only [State.invFields, Prod.mk.injEq] at hfields
    obtain ⟨herr, hinfo, -⟩ := hfields
    exact .kept herr hinfo

theorem performAction_faultChange {a : HostAction} (h : performAction a s = .next t) :
    FaultChange a.Resets s t := by
  cases a with
  | rd | memRd | memWr => cases h; exact .kept rfl rfl
  | wr number d =>
    refine (registerWrite_faultChange h).mono ?_
    rintro ⟨rfl, rfl⟩
    exact .inl rfl
  | hardReset => cases h; exact .reset (.inr rfl) rfl

theorem step_faultChange (h : step s = .next t) :
    FaultChange (∃ a rest, s.script = a :: rest ∧ a.Resets) s t := by
  rcases takeAction_cases s with ⟨-, hwait⟩ | ⟨_, _, -, -, hrefuse⟩ | ⟨a, rest, hscript, -, hact⟩
  · cases hwait.symm.trans h
    exact .kept rfl rfl
  · cases hrefuse.symm.trans h
  · exact (performAction_faultChange (hact.symm.trans h)).of_begin.mono fun hreset =>
      ⟨a, rest, hscript, hreset⟩

end

/-- Settles O23: the codes by the table, the kinds by the raised fault of the command's rule, the live codes
by what a step can do to ERR. -/
theorem faultCodesAndRaisers : Obligations.FaultCodesAndRaisers := by
  refine ⟨by decide, fun i s t hclear h hfault => ?_, fun s t hlive h => ?_⟩
  · obtain ⟨e, herror, rfl⟩ := exec_faulted hclear h hfault
    exact ⟨e.kind, ruleOf_error_raisedBy herror, rfl⟩
  · cases step_faultChange h with
    | kept herr _ => exact herr ▸ hlive
    | raised _ hraised => exact hraised
    | reset _ herr => simp [herr, liveCodes]

/-- Either reset, as a step. -/
theorem step_resets {s t : State} {rest : List HostAction}
    (hscript : s.script = .wr 0x00 0x00000001 :: rest ∨ s.script = .hardReset :: rest)
    (h : step s = .next t) : t.registersReset := by
  rcases hscript with hsys | hhard
  · have hword : decode 0x00000001 = .ok .sysReset := decode_encode .sysReset
    rw [step_wr_cmd hsys, commandWrite_of_decode hword, exec_sysReset] at h
    cases h
    exact softReset_registersReset _
  · cases (step_hardReset hhard).symm.trans h
    exact hardReset_registersReset _

/-- Settles O24: of what a step can do to ERR and ERRINFO only a reset changes a latched fault. -/
theorem onlyResetLeavesTheFaultedState : Obligations.OnlyResetLeavesTheFaultedState := by
  refine ⟨fun s t hlatched h hchanged => ?_, fun s t rest hscript h => ?_⟩
  · cases step_faultChange h with
    | kept herr hinfo => exact (hchanged.elim (· herr) (· hinfo)).elim
    | raised hclear _ => exact absurd hclear hlatched
    | reset hcause _ =>
      obtain ⟨a, rest, hscript, rfl | rfl⟩ := hcause
      · exact ⟨rest, .inl hscript⟩
      · exact ⟨rest, .inr hscript⟩
  · have hreset := step_resets hscript h
    have ⟨herr, hinfo, _⟩ := hreset
    exact ⟨herr, hinfo, hreset⟩

end Sys2Proof.Machine
end

section
/-! PROOFS. The step with no host action to come: the block waits (R153; log entry 4). -/

namespace Sys2Proof.Machine

/-- Settles O8: of the three things a step can do, refusing and performing need an action to come. -/
theorem noActionChangesNothing : Obligations.NoActionChangesNothing := by
  intro s hempty
  rcases takeAction_cases s with ⟨-, hwait⟩ | ⟨a, rest, hscript, -, -⟩ | ⟨a, rest, hscript, -, -⟩
  · exact hwait
  · cases hempty.symm.trans hscript
  · cases hempty.symm.trans hscript

end Sys2Proof.Machine
end
